-- ==== Sys2Proof/Word.lean ====
section
/-! DEFINITION. The word and byte-string types of the core (00_scope.md R10, R11; 20_memory.md R53). -/

namespace Sys2Proof

/-- A byte: 8 bits, bit 7 the most significant (R10). -/
abbrev Byte := BitVec 8

/-- A 32-bit register or schedule word; its byte 0 is the most significant (R11, R53). -/
abbrev Word := BitVec 32

/-- `B(16)` on a 128-bit path: byte `k` is bits `[127-8k : 120-8k]` (R53, R140).
Literals therefore read as the spec's hex strings, byte 0 first. -/
abbrev Bytes16 := BitVec 128

/-- `B(32)` on a 256-bit path, byte 0 most significant (R53). -/
abbrev Bytes32 := BitVec 256

/-- A RoundKeySchedule: 44 words `w[0]..w[43]` (R33). -/
abbrev Schedule := Vector Word 44

end Sys2Proof
end

