-- ==== Sys2Proof/Syntax.lean ====
section
/-! DEFINITION. The commands of the core (30_encoding.md R70 to R76; opcode_table.json). Every one of the
2^32 command words is one of these four with some field values, or illegal (R75). -/

namespace Sys2Proof

/-- A legal command word. Each constructor carries all three declared lengths, in bytes: a length the
operation does not read is still part of the word, which CMD reads back (R21, R76). -/
inductive Instr where
  /-- `OP = 0x1`, reads KLEN (R128). -/
  | expandKey (klen blen xlen : Nat)
  /-- `OP = 0x2`, reads BLEN (R166). -/
  | encryptBlock (klen blen xlen : Nat)
  /-- `OP = 0x3`, reads KLEN, BLEN and XLEN (R184). -/
  | randEncrypt (klen blen xlen : Nat)
  /-- `OP = 0x4`, reads KLEN and XLEN (R188). -/
  | randDecrypt (klen blen xlen : Nat)
  deriving DecidableEq, Repr

end Sys2Proof
end

