-- ==== Sys2Proof/WellFormed.lean ====
section
/-! DEFINITION. Which commands a command word can hold: each declared length is 0..63 (30_encoding.md R70).
A wrong declared length is no ill-formed command; it is a legal one that fails with an error code (R73). -/

namespace Sys2Proof

/-- Each declared length fits its 6-bit field (R70). -/
def lengthsFit (klen blen xlen : Nat) : Bool :=
  decide (klen < 64) && decide (blen < 64) && decide (xlen < 64)

/-- The command has a command word (R70). -/
def Instr.wellFormed : Instr → Bool
  | .expandKey klen blen xlen => lengthsFit klen blen xlen
  | .encryptBlock klen blen xlen => lengthsFit klen blen xlen
  | .randEncrypt klen blen xlen => lengthsFit klen blen xlen
  | .randDecrypt klen blen xlen => lengthsFit klen blen xlen

end Sys2Proof
end

