-- ==== Sys2Proof/Decode.lean ====
section
/-! DEFINITION. The command word CMD32 (30_encoding.md R70 to R76): a total decoder that rejects by name, and
the encoder. Fields are pulled out here once; the machine never looks at the bits of a word again. -/

namespace Sys2Proof

/-- Why a command word is illegal (R75). -/
inductive DecodeError where
  /-- A reserved bit is set: `v & 0xC0C0C0F0` is not zero (R72). -/
  | reservedBits
  /-- `OP` is 0x0 or 0x5 to 0xF (R74). -/
  | reservedOp
  deriving DecidableEq, Repr

/-- The reserved bits of a command word: 7:4, 15:14, 23:22 and 31:30 (R72). -/
def reservedMask : Word := 0xC0C0C0F0#32

/-- `OP = v[3:0]` (R71). -/
def opField (v : Word) : BitVec 4 := v.extractLsb' 0 4

/-- `KLEN = zext(v[13:8])` (R73). -/
def klenField (v : Word) : Nat := (v.extractLsb' 8 6).toNat

/-- `BLEN = zext(v[21:16])` (R73). -/
def blenField (v : Word) : Nat := (v.extractLsb' 16 6).toNat

/-- `XLEN = zext(v[29:24])` (R73). -/
def xlenField (v : Word) : Nat := (v.extractLsb' 24 6).toNat

/-- The command a word selects (R74), or why it is illegal (R75). -/
def decode (v : Word) : Except DecodeError Instr :=
  if v &&& reservedMask ≠ 0 then .error .reservedBits
  else if opField v = 0x1 then .ok (.expandKey (klenField v) (blenField v) (xlenField v))
  else if opField v = 0x2 then .ok (.encryptBlock (klenField v) (blenField v) (xlenField v))
  else if opField v = 0x3 then .ok (.randEncrypt (klenField v) (blenField v) (xlenField v))
  else if opField v = 0x4 then .ok (.randDecrypt (klenField v) (blenField v) (xlenField v))
  else .error .reservedOp

/-- The fields laid out from bit 31 down to bit 0, reserved bits zero (R70). -/
def packWord (op : BitVec 4) (klen blen xlen : Nat) : Word :=
  0#2 ++ BitVec.ofNat 6 xlen ++ 0#2 ++ BitVec.ofNat 6 blen ++ 0#2 ++ BitVec.ofNat 6 klen ++ 0#4 ++ op

/-- The command word of a well-formed command (R70, R74). -/
def encode : Instr → Word
  | .expandKey klen blen xlen => packWord 0x1 klen blen xlen
  | .encryptBlock klen blen xlen => packWord 0x2 klen blen xlen
  | .randEncrypt klen blen xlen => packWord 0x3 klen blen xlen
  | .randDecrypt klen blen xlen => packWord 0x4 klen blen xlen

/-- The command word of an opcode-table word: a command is one 32-bit word (R70), and the bits above the
`nbits` given are zero. -/
def tableWord (nbits w : Nat) : Word := BitVec.ofNat 32 (w % 2 ^ nbits)

/-- The decoder on a word of spec/opcode_table.json, bit 0 least significant. -/
def decodeTableWord (nbits w : Nat) : Option Instr :=
  match decode (tableWord nbits w) with
  | .ok i => some i
  | .error _ => none

end Sys2Proof
end

