-- ==== Sys2Proof/Config.lean ====
section
/-! DEFINITION. What an implementation of the core fixes (00_scope.md R9), and the one value the spec leaves
open (42_key_schedule.md R123, 93_implementation_defined.md I7). Every constant here is without a body: no
proof can see its value, so a theorem holds whatever it is. -/

namespace Sys2Proof

/-- The engine structure `ENGINE` (R9): one round per step, or eleven rounds combinational. -/
inductive Engine where
  | iterative
  | unrolled
  deriving DecidableEq, Repr, Inhabited

/-- `ENGINE`, OPEN in the spec; it has no architectural effect but latency (R9, R164). -/
opaque Config.engine : Engine

/-- `LAT_EXPAND - 1` for an engine structure: any natural number (R9). -/
opaque Config.extraExpand : Engine → Nat

/-- `LAT_ENCRYPT - 1` for an engine structure: any natural number (R9). -/
opaque Config.extraEncrypt : Engine → Nat

/-- `LAT_RAND_ENC - 1` for an engine structure: any natural number (R9). -/
opaque Config.extraRandEnc : Engine → Nat

/-- `LAT_RAND_DEC - 1` for an engine structure: any natural number (R9). -/
opaque Config.extraRandDec : Engine → Nat

/-- `LAT_EXPAND`: engine steps from acceptance to commit of EXPAND_KEY, at least 1 and independent of data (R9, R246). -/
def Config.latExpand : Nat := Config.extraExpand Config.engine + 1

/-- `LAT_ENCRYPT` (R9, R246). -/
def Config.latEncrypt : Nat := Config.extraEncrypt Config.engine + 1

/-- `LAT_RAND_ENC` (R9, R246). -/
def Config.latRandEnc : Nat := Config.extraRandEnc Config.engine + 1

/-- `LAT_RAND_DEC` (R9, R246). -/
def Config.latRandDec : Nat := Config.extraRandDec Config.engine + 1

/-- Free value: the round-constant byte of an index outside 1..10 (R123, I7). No command reaches it. -/
opaque Config.rcOutside : Nat → Byte

end Sys2Proof
end

