-- ==== Sys2Proof/Machine/Bytes.lean ====
section
/-! DEFINITION. Byte order (00_scope.md R11, R12; 20_memory.md R53): the bytes of words and of byte strings,
the State matrix of a block, and the words of a byte string. -/

namespace Sys2Proof.Machine

/-- `b[k]` of a 16-byte string: bits `[127-8k : 120-8k]` (R53). -/
def byteAt (b : Bytes16) (k : Fin 16) : Byte := b.extractLsb' (120 - 8 * k.val) 8

/-- The 16-byte string with the given bytes, byte 0 first (R11). -/
def ofBytes (f : Fin 16 → Byte) : Bytes16 :=
  f 0 ++ f 1 ++ f 2 ++ f 3 ++ f 4 ++ f 5 ++ f 6 ++ f 7 ++
    f 8 ++ f 9 ++ f 10 ++ f 11 ++ f 12 ++ f 13 ++ f 14 ++ f 15

/-- `W.m`, byte `m` of a word: bits `[31-8m : 24-8m]` (R11). -/
def wordByte (w : Word) (m : Fin 4) : Byte := w.extractLsb' (24 - 8 * m.val) 8

/-- The word `[a0,a1,a2,a3]`, `a0` in bits 31:24 (R11). -/
def wordOf (a0 a1 a2 a3 : Byte) : Word := a0 ++ a1 ++ a2 ++ a3

/-- `s[r][c] = b[r + 4c]`: the State entry of a 16-byte string, loaded column by column (R12). -/
def entry (s : Bytes16) (r c : Fin 4) : Byte := byteAt s ⟨r.val + 4 * c.val, by omega⟩

/-- The State with the given entries, stored back column by column (R12). -/
def ofEntries (f : Fin 4 → Fin 4 → Byte) : Bytes16 :=
  ofBytes fun k => f ⟨k.val % 4, by omega⟩ ⟨k.val / 4, by omega⟩

/-- Column `c` of a State, bytes `4c..4c+3`: bits `[127-32c : 96-32c]` (43_round_transforms.md R140). -/
def column (s : Bytes16) (c : Fin 4) : Word := s.extractLsb' (96 - 32 * c.val) 32

/-- The State with the given columns (R140); also the 16-byte string of four words (R28). -/
def ofColumns (c0 c1 c2 c3 : Word) : Bytes16 := c0 ++ c1 ++ c2 ++ c3

/-- Word `j` of a 32-byte string: bytes `4j..4j+3`, byte `4j` in bits 31:24 (10_state.md R39). -/
def wordAt (v : Bytes32) (j : Fin 8) : Word := v.extractLsb' (224 - 32 * j.val) 32

/-- `b[0:16]` of a 32-byte string. -/
def firstHalf (v : Bytes32) : Bytes16 := v.extractLsb' 128 128

/-- `b[16:32]` of a 32-byte string. -/
def secondHalf (v : Bytes32) : Bytes16 := v.extractLsb' 0 128

end Sys2Proof.Machine
end

