-- ==== Sys2Proof/Machine/GaloisField.lean ====
section
/-! DEFINITION. GaloisFieldArithmetic (40_gf_arith.md): doubling and tripling in GF(2^8), and the field
reading of R102 in which the second definition of the S-box is written (41_sbox.md R111). -/

namespace Sys2Proof.Machine

/-- Multiplication by `x` modulo x^8+x^4+x^3+x+1 (R100). -/
def double (a : Byte) : Byte := (a <<< 1) ^^^ (if a.getLsbD 7 then 0x1B#8 else 0x00#8)

/-- Multiplication by `x + 1` (R101). -/
def timesThree (a : Byte) : Byte := double a ^^^ a

/-- `a` times the low `n` bits of `b`, by Horner's rule from the top bit down (the field of R102). -/
def gfMulBits (a b : Byte) : Nat → Byte
  | 0 => 0
  | n + 1 => double (gfMulBits a b n) ^^^ (if b.getLsbD (7 - n) then a else 0)

/-- The product of the field of R102. No sub-block of the hardware computes it (R102). -/
def gfMul (a b : Byte) : Byte := gfMulBits a b 8

/-- `a^(2^(n+1) - 2)`: square, and multiply by `a^2`. -/
def gfInvPow (a : Byte) : Nat → Byte
  | 0 => 1
  | n + 1 => gfMul (gfMul (gfInvPow a n) (gfInvPow a n)) (gfMul a a)

/-- The multiplicative inverse, as `a^254`; 0 for `a = 0` (41_sbox.md R111). -/
def gfInv (a : Byte) : Byte := gfInvPow a 7

end Sys2Proof.Machine
end

