-- ==== Sys2Proof/Machine/Sbox.lean ====
section
/-! DEFINITION. SubstitutionTable (41_sbox.md): the constant table and the lookup. There is no inverse table (R115). -/

namespace Sys2Proof.Machine

/-- The table of R110, one row of 16 bytes a line: row `hi`, column `lo` the byte `lo` of the row. -/
def sboxRows : Vector Bytes16 16 := #v[
  0x637c777bf26b6fc53001672bfed7ab76#128,
  0xca82c97dfa5947f0add4a2af9ca472c0#128,
  0xb7fd9326363ff7cc34a5e5f171d83115#128,
  0x04c723c31896059a071280e2eb27b275#128,
  0x09832c1a1b6e5aa0523bd6b329e32f84#128,
  0x53d100ed20fcb15b6acbbe394a4c58cf#128,
  0xd0efaafb434d338545f9027f503c9fa8#128,
  0x51a3408f929d38f5bcb6da2110fff3d2#128,
  0xcd0c13ec5f974417c4a77e3d645d1973#128,
  0x60814fdc222a908846eeb814de5e0bdb#128,
  0xe0323a0a4906245cc2d3ac629195e479#128,
  0xe7c8376d8dd54ea96c56f4ea657aae08#128,
  0xba78252e1ca6b4c6e8dd741f4bbd8b8a#128,
  0x703eb5664803f60e613557b986c11d9e#128,
  0xe1f8981169d98e949b1e87e9ce5528df#128,
  0x8ca1890dbfe6426841992d0fb054bb16#128]

/-- `SBOX[a]` for `a = 16*hi + lo` (R110, R112). -/
def substitute (a : Byte) : Byte :=
  byteAt sboxRows[(a.extractLsb' 4 4).toFin] (a.extractLsb' 0 4).toFin

/-- The construction of R111, which the hardware does not compute: inverse, then affine map. -/
def sboxByConstruction (a : Byte) : Byte :=
  let b := gfInv a
  b ^^^ b.rotateLeft 1 ^^^ b.rotateLeft 2 ^^^ b.rotateLeft 3 ^^^ b.rotateLeft 4 ^^^ 0x63#8

end Sys2Proof.Machine
end

