-- ==== Sys2Proof/Machine/KeySchedule.lean ====
section
/-! DEFINITION. RoundConstants and KeySchedule (42_key_schedule.md R120 to R130): the recurrence that makes the
44 schedule words from a key, computed in increasing word index (R125). -/

namespace Sys2Proof.Machine

/-- `RotWord([a0,a1,a2,a3]) = [a1,a2,a3,a0]` (R120). -/
def rotWord (w : Word) : Word := wordOf (wordByte w 1) (wordByte w 2) (wordByte w 3) (wordByte w 0)

/-- The S-box applied to each byte of a word (R121). -/
def subWord (w : Word) : Word :=
  wordOf (substitute (wordByte w 0)) (substitute (wordByte w 1)) (substitute (wordByte w 2))
    (substitute (wordByte w 3))

/-- The round-constant bytes `rc[0..9]` (R122). -/
def rc : Vector Byte 10 := #v[0x01, 0x02, 0x04, 0x08, 0x10, 0x20, 0x40, 0x80, 0x1B, 0x36]

/-- `Rcon(j)` for `j` in 1..10; outside that range the byte is a free value, which no rule reads (R123, I7). -/
def rcon (j : Nat) : Word :=
  wordOf (if h : 1 ≤ j ∧ j ≤ 10 then rc[j - 1] else Config.rcOutside j) 0 0 0

/-- The `temp` of the recurrence at word index `i`, from `w[i-1]` (R124). -/
def scheduleTemp (i : Nat) (previous : Word) : Word :=
  if i % 4 = 0 then subWord (rotWord previous) ^^^ rcon (i / 4) else previous

/-- The recurrence at word index `i = n + 4`: `w[i] := w[i-4] ^ temp` (R124). -/
def expandWord (w : Schedule) (n : Fin 40) : Schedule :=
  w.set (n.val + 4) (w[n.val] ^^^ scheduleTemp (n.val + 4) w[n.val + 3])

/-- The first four words, the key itself split into words (R124, R129); the others are not yet computed. -/
def expandStart (key : Bytes16) : Schedule :=
  #v[column key 0, column key 1, column key 2, column key 3] ++ (.replicate 40 0 : Vector Word 40)

/-- The schedule after `n` steps of the recurrence: words `w[0]..w[n+3]` are final (R124, R125). -/
def expandTo (key : Bytes16) : Nat → Schedule
  | 0 => expandStart key
  | n + 1 => if h : n < 40 then expandWord (expandTo key n) ⟨n, h⟩ else expandTo key n

/-- `KeyExpansion(key)` (R124). -/
def keyExpansion (key : Bytes16) : Schedule := expandTo key 40

/-- `RK(r) = w[4r] || w[4r+1] || w[4r+2] || w[4r+3]` (10_state.md R33). -/
def roundKey (w : Schedule) (r : Fin 11) : Bytes16 :=
  ofColumns w[4 * r.val] w[4 * r.val + 1] w[4 * r.val + 2] w[4 * r.val + 3]

end Sys2Proof.Machine
end

