-- ==== Sys2Proof/Machine/RoundPipeline.lean ====
section
/-! DEFINITION. RoundPipeline (43_round_transforms.md): the four transforms, functions from State to State. -/

namespace Sys2Proof.Machine

/-- `SubBytes(s)[r][c] := SBOX[s[r][c]]` (R141). -/
def subBytes (s : Bytes16) : Bytes16 := ofEntries fun r c => substitute (entry s r c)

/-- `ShiftRows(s)[r][c] := s[r][(c + r) mod 4]` (R142); addition in `Fin 4` is modulo 4. -/
def shiftRows (s : Bytes16) : Bytes16 := ofEntries fun r c => entry s r (c + r)

/-- One column through the four equations of R143, all from the old column. -/
def mixColumn (w : Word) : Word :=
  let c0 := wordByte w 0
  let c1 := wordByte w 1
  let c2 := wordByte w 2
  let c3 := wordByte w 3
  wordOf
    (double c0 ^^^ timesThree c1 ^^^ c2 ^^^ c3)
    (c0 ^^^ double c1 ^^^ timesThree c2 ^^^ c3)
    (c0 ^^^ c1 ^^^ double c2 ^^^ timesThree c3)
    (timesThree c0 ^^^ c1 ^^^ c2 ^^^ double c3)

/-- The State whose column `c` is `MixColumn(column c of s)` (R143). -/
def mixColumns (s : Bytes16) : Bytes16 :=
  ofColumns (mixColumn (column s 0)) (mixColumn (column s 1)) (mixColumn (column s 2)) (mixColumn (column s 3))

/-- `AddRoundKey(s, k)[r][c] := s[r][c] ^ k[r][c]`, 128 exclusive-or gates (R145). -/
def addRoundKey (s k : Bytes16) : Bytes16 := s ^^^ k

end Sys2Proof.Machine
end

