-- ==== Sys2Proof/Machine/BlockCipher.lean ====
section
/-! DEFINITION. BlockCipher (44_block_cipher.md): the ten rounds, and the iterative orchestrator of R164 with
the word counter of 42_key_schedule.md R127 as state machines of their own. -/

namespace Sys2Proof.Machine

/-- A standard round with round key `RK(round)` (R162). -/
def standardRound (w : Schedule) (s : Bytes16) (round : Fin 11) : Bytes16 :=
  addRoundKey (mixColumns (shiftRows (subBytes s))) (roundKey w round)

/-- The final round, without MixColumns (R163). -/
def finalRound (w : Schedule) (s : Bytes16) : Bytes16 :=
  addRoundKey (shiftRows (subBytes s)) (roundKey w 10)

/-- `Cipher(block, w)` (R160): the initial step, rounds 1 to 9 in order, the final round. -/
def cipher (block : Bytes16) (w : Schedule) : Bytes16 :=
  finalRound w ([1, 2, 3, 4, 5, 6, 7, 8, 9].foldl (standardRound w) (addRoundKey block (roundKey w 0)))

/-- The hidden working state of the iterative orchestrator (R164; 10_state.md R37). Not architectural. -/
structure CipherWork where
  s : Bytes16
  rnd : Nat
  deriving DecidableEq, Repr

/-- On acceptance: `s <- AddRoundKey(State of block, RK(0))`, `rnd <- 1` (R164). -/
def cipherWorkStart (block : Bytes16) (w : Schedule) : CipherWork :=
  { s := addRoundKey block (roundKey w 0), rnd := 1 }

/-- One engine round step (R164). The counter never goes past 10's step: at 11 the work is done and stays. -/
def cipherWorkStep (w : Schedule) (k : CipherWork) : CipherWork :=
  if h : k.rnd ≤ 9 then { s := standardRound w k.s ⟨k.rnd, by omega⟩, rnd := k.rnd + 1 }
  else if k.rnd = 10 then { s := finalRound w k.s, rnd := 11 }
  else k

/-- `n` engine round steps. -/
def cipherWorkSteps (w : Schedule) : Nat → CipherWork → CipherWork
  | 0, k => k
  | n + 1, k => cipherWorkSteps w n (cipherWorkStep w k)

/-- The hidden working state of the iterative key expansion: the partial words, and the word counter of R127. -/
structure KeyWork where
  w : Schedule
  i : Nat
  deriving DecidableEq, Repr

/-- On acceptance the first four words are the key and the counter is 4 (R127). -/
def keyWorkStart (key : Bytes16) : KeyWork := { w := expandStart key, i := 4 }

/-- One word of the schedule, the counter running 4..43 (R127); at 44 the work is done and stays. -/
def keyWorkStep (k : KeyWork) : KeyWork :=
  if h : 4 ≤ k.i ∧ k.i < 44 then { w := expandWord k.w ⟨k.i - 4, by omega⟩, i := k.i + 1 } else k

/-- `n` word steps. -/
def keyWorkSteps : Nat → KeyWork → KeyWork
  | 0, k => k
  | n + 1, k => keyWorkSteps n (keyWorkStep k)

end Sys2Proof.Machine
end

