-- ==== Sys2Proof/Machine/State.lean ====
section
/-! DEFINITION. The state of the core as plain data (10_state.md R20 to R41), what the host's side of the bus
holds, the reasons a step can stop, and the state after reset. -/

namespace Sys2Proof.Machine

/-- The four operations (30_encoding.md R74), as the pending record names them (R36). -/
inductive Op where
  | expandKey
  | encryptBlock
  | randEncrypt
  | randDecrypt
  deriving DecidableEq, Repr

/-- The errors a command can end with (60_exceptions.md R200, codes 1 to 5). -/
inductive ErrorCode where
  | invalidKeyLength
  | invalidBlockLength
  | invalidCiphertextLength
  | noSchedule
  | illegalCommand
  deriving DecidableEq, Repr

/-- The fields of STATUS (R22). The reserved bits read 0 and ignore writes, so they hold no state. -/
structure Status where
  /-- Bit 0: a command is accepted and not yet committed (R23). -/
  busy : Bool
  /-- Bit 1: the last accepted command has completed (R24). -/
  done : Bool
  /-- Bit 2: an EXPAND_KEY has committed since reset (R25). -/
  rksValid : Bool
  /-- Bit 4, sticky: a CMD write was dropped while busy (R26). -/
  ovr : Bool
  /-- Bits 11:8: the error code of the last completed command (R27). -/
  errcode : BitVec 4
  deriving DecidableEq, Repr

/-- The operands of a command as they stood when it was accepted (R36). -/
structure Snapshot where
  key : Bytes16
  block : Bytes16
  nonce : Bytes16
  ctin : Bytes32
  deriving DecidableEq, Repr

/-- The pending-command record PEND when it is not `none` (R36). -/
structure Pending where
  op : Op
  word : Word
  snap : Snapshot
  /-- Engine steps still to run, from the op's `LAT_*` (R9). -/
  left : Nat
  deriving DecidableEq, Repr

/-- One access the host asks for: a number of bytes at a byte offset of the window (20_memory.md R57, R58).
Only whole aligned 32-bit registers can be expressed on the bus (R52). -/
inductive Access where
  | write (offset bytes : Nat) (value : Word)
  | read (offset bytes : Nat)
  deriving DecidableEq, Repr

/-- One atomic event of the world around the core (R58, R59; 30_encoding.md R81; 70_reset_and_hazards.md R230). -/
inductive Event where
  /-- A host access, `rst_n = 1`. -/
  | access (a : Access)
  /-- One `EngineStep` (R81). -/
  | engineStep
  /-- The engine runs to its commit with no host access between: R81's timeless step. -/
  | engineFinish
  /-- A cycle with `rst_n = 0`, which may carry a host access (R230). -/
  | resetCycle (a : Option Access)
  deriving DecidableEq, Repr

/-- Faults: there are none. An error of a command is a next state with ERRCODE set, and the only stop is the refusal
below (60_exceptions.md R212). Nobody raises a fault; safe. -/
inductive Fault where
  deriving DecidableEq, Repr

/-- Refusals: no meaning is given. -/
inductive Refusal where
  /-- Raised by `exec` alone, for a command whose meaning is not written. No arm of this model raises it. Safe. -/
  | notModelled (mnemonic : String)
  /-- Raised by a host access that the interface cannot express, and a model refuses: one that is not one whole
  aligned 32-bit register (20_memory.md R52, 60_exceptions.md R212), or whose offset the word address
  `offset[9:2]` cannot carry (20_memory.md R51; log entry 6). No command raises it. Safe. -/
  | accessNotExpressible
  deriving DecidableEq, Repr

/-- The machine: the architectural state, which is exactly the fields `cmd` to `pend` (R20), and the model's
own two fields for the host's side of the bus. -/
structure State where
  /-- CMD: the last command word accepted (R21). -/
  cmd : Word
  /-- STATUS (R22). -/
  status : Status
  /-- KEY0..KEY3 (R28). -/
  key : Vector Word 4
  /-- BLOCK0..BLOCK3 (R29). -/
  block : Vector Word 4
  /-- NONCE0..NONCE3 (R30). -/
  nonce : Vector Word 4
  /-- CTIN0..CTIN7 (R31). -/
  ctin : Vector Word 8
  /-- OUT0..OUT7 (R32). -/
  out : Vector Word 8
  /-- RKS: `w[0]..w[43]` (R33). -/
  rks : Schedule
  /-- PEND: the command in flight (R36). -/
  pend : Option Pending
  /-- `rdata`: what the bus drives in the cycle of a read, nothing otherwise (R51).
  DESIGN CHOICE, log entry 2. -/
  rdata : Option Word
  /-- The events still to come, oldest first: the host's accesses and the engine's steps in the order in
  which they interleave (R59). DESIGN CHOICE, log entry 1. -/
  todo : List Event
  deriving DecidableEq, Repr

/-- STATUS after reset (R22, R40). -/
def Status.reset : Status :=
  { busy := false, done := false, rksValid := false, ovr := false, errcode := 0 }

/-- The state after reset (R40): every register zero, no command in flight, and nothing asked of the core. -/
def State.reset : State :=
  { cmd := 0, status := .reset,
    key := .replicate 4 0, block := .replicate 4 0, nonce := .replicate 4 0, ctin := .replicate 8 0,
    out := .replicate 8 0, rks := .replicate 44 0, pend := none, rdata := none, todo := [] }

end Sys2Proof.Machine
end

