-- ==== Sys2Proof/Machine/Flags.lean ====
section
/-! DEFINITION. STATUS: its layout as a word, what a host write does to it, and every change a command makes to
its fields (10_state.md R22 to R27; 60_exceptions.md R200). -/

namespace Sys2Proof.Machine

/-- The numeric error codes (R200). Codes 6 to 15 are never written. -/
def errorNumber : ErrorCode → BitVec 4
  | .invalidKeyLength => 1
  | .invalidBlockLength => 2
  | .invalidCiphertextLength => 3
  | .noSchedule => 4
  | .illegalCommand => 5

/-- STATUS as the host reads it (R22): `ERRCODE << 8 | OVR << 4 | RKS_VALID << 2 | DONE << 1 | BUSY` (R57). -/
def statusWord (t : Status) : Word :=
  0#20 ++ t.errcode ++ 0#3 ++ BitVec.ofBool t.ovr ++ 0#1 ++ BitVec.ofBool t.rksValid ++ BitVec.ofBool t.done ++
    BitVec.ofBool t.busy

/-- A host write of `v` to STATUS: if `v[4] = 1` then `OVR <- 0`, nothing else (R22). -/
def statusWrite (v : Word) (t : Status) : Status := if v.getLsbD 4 then { t with ovr := false } else t

/-- Acceptance: `DONE <- 0`, `ERRCODE <- 0` (R24, R27). -/
def statusAccept (t : Status) : Status := { t with done := false, errcode := 0 }

/-- Failure: `ERRCODE <- code(E)`, `DONE <- 1` (30_encoding.md R79). -/
def statusFail (e : ErrorCode) (t : Status) : Status := { t with done := true, errcode := errorNumber e }

/-- A passing command: `BUSY <- 1` (R23). -/
def statusStart (t : Status) : Status := { t with busy := true }

/-- A dropped command: `OVR <- 1` (R26). -/
def statusDrop (t : Status) : Status := { t with ovr := true }

/-- Commit: `BUSY <- 0`, `DONE <- 1`; ERRCODE is not written (30_encoding.md R82). -/
def statusFinish (t : Status) : Status := { t with busy := false, done := true }

end Sys2Proof.Machine
end

