-- ==== Sys2Proof/Machine/Operands.lean ====
section
/-! DEFINITION. The operand views of the pseudocode (10_state.md R39): register banks as byte strings and back,
the operation of a command, and what each operation declares and takes. -/

namespace Sys2Proof.Machine

/-- The 16-byte string of a bank of four registers, register 0 first (R28 to R30). -/
def bank16 (r : Vector Word 4) : Bytes16 := ofColumns r[0] r[1] r[2] r[3]

/-- The 32-byte string of a bank of eight registers (R31, R32). -/
def bank32 (r : Vector Word 8) : Bytes32 := r[0] ++ r[1] ++ r[2] ++ r[3] ++ r[4] ++ r[5] ++ r[6] ++ r[7]

/-- The eight words of a 32-byte string, as `x[OUT] <- v` writes them (R39). -/
def words32 (v : Bytes32) : Vector Word 8 :=
  #v[wordAt v 0, wordAt v 1, wordAt v 2, wordAt v 3, wordAt v 4, wordAt v 5, wordAt v 6, wordAt v 7]

/-- `v || 0^16`, a 16-byte result as OUT holds it (R32). -/
def padOut (v : Bytes16) : Bytes32 := v ++ 0#128

/-- The snapshot taken at acceptance (R36). -/
def snapshot (s : State) : Snapshot :=
  { key := bank16 s.key, block := bank16 s.block, nonce := bank16 s.nonce, ctin := bank32 s.ctin }

/-- The operation of a command: `OPNAME` (30_encoding.md R74, R78). -/
def opOf : Instr → Op
  | .expandKey _ _ _ => .expandKey
  | .encryptBlock _ _ _ => .encryptBlock
  | .randEncrypt _ _ _ => .randEncrypt
  | .randDecrypt _ _ _ => .randDecrypt

/-- The declared lengths are the ones the operation requires; a field it does not read is ignored (R74, R76). -/
def lengthsRight : Instr → Bool
  | .expandKey klen _ _ => klen == 16
  | .encryptBlock _ blen _ => blen == 16
  | .randEncrypt klen blen xlen => klen == 16 && xlen == 16 && blen == 16
  | .randDecrypt klen _ xlen => xlen == 32 && klen == 16

/-- `LAT(op)` (00_scope.md R9, 30_encoding.md R78). -/
def latency : Op → Nat
  | .expandKey => Config.latExpand
  | .encryptBlock => Config.latEncrypt
  | .randEncrypt => Config.latRandEnc
  | .randDecrypt => Config.latRandDec

end Sys2Proof.Machine
end

