-- ==== Sys2Proof/Machine/Ops.lean ====
section
/-! DEFINITION. The named operations over the registers, and command processing as one shared operation
(30_encoding.md R78 to R82). Ending a command with an error is this hardware's only exception; nothing returns
from one (60_exceptions.md R201, R204). -/

namespace Sys2Proof.Machine

/-- `x[CMD] <- v`, `DONE <- 0`, `ERRCODE <- 0`: what every accepted word does (R78, R80). -/
def acceptWord (v : Word) (s : State) : State := { s with cmd := v, status := statusAccept s.status }

/-- `raise E()`: the command ends with its code and DONE set, and nothing else is written (R79, R201). -/
def raiseError (e : ErrorCode) (s : State) : State := { s with status := statusFail e s.status }

/-- A CMD write while busy: `OVR <- 1`, and the word is dropped (R26, R78). -/
def dropCommand (s : State) : State := { s with status := statusDrop s.status }

/-- `x[KEY0..KEY3] <- 0` (R28). -/
def clearKey (s : State) : State := { s with key := .replicate 4 0 }

/-- `PEND <- {op, word, snap, left: LAT(op)}`, `BUSY <- 1` (R78). -/
def startCommand (op : Op) (word : Word) (snap : Snapshot) (s : State) : State :=
  { s with
    pend := some { op := op, word := word, snap := snap, left := latency op },
    status := statusStart s.status }

/-- `PEND <- none`, `BUSY <- 0`, `DONE <- 1` (R82). -/
def finishCommand (s : State) : State := { s with pend := none, status := statusFinish s.status }

/-- `x[OUT] <- v` (R39). -/
def writeOut (v : Bytes32) (s : State) : State := { s with out := words32 v }

/-- `x[RKS] <- w`, all 44 words at once, and `RKS_VALID <- 1` (R25, R34). -/
def writeSchedule (w : Schedule) (s : State) : State :=
  { s with rks := w, status := { s.status with rksValid := true } }

/-- The effect of a legal command word (R78): dropped while busy; otherwise accepted, checked by `check`, and
either ended with its error or started, with the snapshot taken before the acceptance effect `accept`. -/
def issue (op : Op) (word : Word) (check : State → Option ErrorCode) (accept : State → State) (s : State) :
    Host.Outcome State Fault Refusal :=
  if s.status.busy then .next (dropCommand s)
  else
    match check (acceptWord word s) with
    | some e => .next (raiseError e (acceptWord word s))
    | none => .next (startCommand op word (snapshot s) (accept (acceptWord word s)))

/-- The effect of an illegal command word (R75, R78). -/
def issueIllegal (word : Word) (s : State) : Host.Outcome State Fault Refusal :=
  if s.status.busy then .next (dropCommand s)
  else .next (raiseError .illegalCommand (acceptWord word s))

end Sys2Proof.Machine
end

