-- ==== Sys2Proof/Machine/EncryptBlock.lean ====
section
/-! DEFINITION. ENCRYPT_BLOCK (44_block_cipher.md R166). -/

namespace Sys2Proof.Machine

/-- `Check_ENCRYPT_BLOCK`: the length first, then the schedule (R166, 60_exceptions.md R203). -/
def checkEncryptBlock (blen : Nat) (s : State) : Option ErrorCode :=
  if blen ≠ 16 then some .invalidBlockLength
  else if s.status.rksValid then none
  else some .noSchedule

/-- `Accept_ENCRYPT_BLOCK`: nothing (R166). -/
def acceptEncryptBlock (s : State) : State := s

/-- `Result_ENCRYPT_BLOCK`: OUT becomes the ciphertext under RKS, then zeros (R166). -/
def resultEncryptBlock (snap : Snapshot) (s : State) : State := writeOut (padOut (cipher snap.block s.rks)) s

/-- ENCRYPT_BLOCK, at the CMD write that issues it (R166, 30_encoding.md R78). -/
def execEncryptBlock (klen blen xlen : Nat) (s : State) : Host.Outcome State Fault Refusal :=
  issue .encryptBlock (encode (.encryptBlock klen blen xlen)) (checkEncryptBlock blen) acceptEncryptBlock s

end Sys2Proof.Machine
end

