-- ==== Sys2Proof/Machine/ExpandKey.lean ====
section
/-! DEFINITION. EXPAND_KEY (42_key_schedule.md R128). -/

namespace Sys2Proof.Machine

/-- `Check_EXPAND_KEY` (R128). -/
def checkExpandKey (klen : Nat) (_ : State) : Option ErrorCode :=
  if klen ≠ 16 then some .invalidKeyLength else none

/-- `Accept_EXPAND_KEY`: KEY is cleared (R128). -/
def acceptExpandKey (s : State) : State := clearKey s

/-- `Result_EXPAND_KEY`: RKS becomes the schedule of the snapshot's key (R128). -/
def resultExpandKey (snap : Snapshot) (s : State) : State := writeSchedule (keyExpansion snap.key) s

/-- EXPAND_KEY, at the CMD write that issues it (R128, 30_encoding.md R78). -/
def execExpandKey (klen blen xlen : Nat) (s : State) : Host.Outcome State Fault Refusal :=
  issue .expandKey (encode (.expandKey klen blen xlen)) (checkExpandKey klen) acceptExpandKey s

end Sys2Proof.Machine
end

