-- ==== Sys2Proof/Machine/RandScheme.lean ====
section
/-! DEFINITION. RandomizedBlockScheme (45_randomized_scheme.md R180 to R183): the two functions. The schedule
they use is private to the command and is no state (R181). -/

namespace Sys2Proof.Machine

/-- `RandEnc(p, key, nonce) := nonce || (p ^ Cipher(nonce, KeyExpansion(key)))` (R180). -/
def randEnc (p key nonce : Bytes16) : Bytes32 := nonce ++ (p ^^^ cipher nonce (keyExpansion key))

/-- `RandDec(ct, key) := ct[16:32] ^ Cipher(ct[0:16], KeyExpansion(key))` (R182). -/
def randDec (ct : Bytes32) (key : Bytes16) : Bytes16 :=
  secondHalf ct ^^^ cipher (firstHalf ct) (keyExpansion key)

end Sys2Proof.Machine
end

