-- ==== Sys2Proof/Machine/RandCommands.lean ====
section
/-! DEFINITION. RAND_ENCRYPT and RAND_DECRYPT (45_randomized_scheme.md R184, R188). -/

namespace Sys2Proof.Machine

/-- `Check_RAND_ENCRYPT`: key, nonce, plaintext (R184, 60_exceptions.md R203). -/
def checkRandEncrypt (klen blen xlen : Nat) (_ : State) : Option ErrorCode :=
  if klen ≠ 16 then some .invalidKeyLength
  else if xlen ≠ 16 then some .invalidBlockLength
  else if blen ≠ 16 then some .invalidBlockLength
  else none

/-- `Accept_RAND_ENCRYPT`: KEY is cleared (R184). -/
def acceptRandEncrypt (s : State) : State := clearKey s

/-- `Result_RAND_ENCRYPT`: OUT becomes the 32-byte ciphertext; RKS is not read (R184). -/
def resultRandEncrypt (snap : Snapshot) (s : State) : State := writeOut (randEnc snap.block snap.key snap.nonce) s

/-- RAND_ENCRYPT, at the CMD write that issues it (R184, 30_encoding.md R78). -/
def execRandEncrypt (klen blen xlen : Nat) (s : State) : Host.Outcome State Fault Refusal :=
  issue .randEncrypt (encode (.randEncrypt klen blen xlen)) (checkRandEncrypt klen blen xlen) acceptRandEncrypt s

/-- `Check_RAND_DECRYPT`: ciphertext, key (R188, 60_exceptions.md R203). -/
def checkRandDecrypt (klen xlen : Nat) (_ : State) : Option ErrorCode :=
  if xlen ≠ 32 then some .invalidCiphertextLength
  else if klen ≠ 16 then some .invalidKeyLength
  else none

/-- `Accept_RAND_DECRYPT`: KEY is cleared (R188). -/
def acceptRandDecrypt (s : State) : State := clearKey s

/-- `Result_RAND_DECRYPT`: OUT becomes the plaintext, then zeros; RKS is not read (R188). -/
def resultRandDecrypt (snap : Snapshot) (s : State) : State := writeOut (padOut (randDec snap.ctin snap.key)) s

/-- RAND_DECRYPT, at the CMD write that issues it (R188, 30_encoding.md R78). -/
def execRandDecrypt (klen blen xlen : Nat) (s : State) : Host.Outcome State Fault Refusal :=
  issue .randDecrypt (encode (.randDecrypt klen blen xlen)) (checkRandDecrypt klen xlen) acceptRandDecrypt s

end Sys2Proof.Machine
end

