-- ==== Sys2Proof/Machine/Dispatch.lean ====
section
/-! DEFINITION. One arm per command: what issuing it does (30_encoding.md R78). -/

namespace Sys2Proof.Machine

/-- Issue a legal command: `IssueCommand` of its command word (R78). Its result comes later, at the commit
(R82, Machine/Engine.lean). -/
def exec (i : Instr) (s : State) : Host.Outcome State Fault Refusal :=
  match i with
  | .expandKey klen blen xlen => Sys2Proof.Machine.execExpandKey klen blen xlen s
  | .encryptBlock klen blen xlen => Sys2Proof.Machine.execEncryptBlock klen blen xlen s
  | .randEncrypt klen blen xlen => Sys2Proof.Machine.execRandEncrypt klen blen xlen s
  | .randDecrypt klen blen xlen => Sys2Proof.Machine.execRandDecrypt klen blen xlen s

end Sys2Proof.Machine
end

