-- ==== Sys2Proof/Machine/Engine.lean ====
section
/-! DEFINITION. The engine: its step and the commit of the command in flight (30_encoding.md R81, R82). -/

namespace Sys2Proof.Machine

/-- `Result_op(PEND.snap, x[RKS])` (R82). -/
def applyResult (p : Pending) (s : State) : State :=
  match p.op with
  | .expandKey => resultExpandKey p.snap s
  | .encryptBlock => resultEncryptBlock p.snap s
  | .randEncrypt => resultRandEncrypt p.snap s
  | .randDecrypt => resultRandDecrypt p.snap s

/-- `Commit()`, one atomic event (R82). With `PEND = none` the engine has no step and the state holds (R81). -/
def commit (s : State) : State :=
  match s.pend with
  | none => s
  | some p => finishCommand (applyResult p s)

/-- `EngineStep`: one step fewer to run, and the commit when none is left (R81). With `PEND = none` the state
holds. So it does with `left = 0`, which no run reaches (log entry 9). -/
def engineStep (s : State) : State :=
  match s.pend with
  | none => s
  | some p =>
    if p.left = 1 then commit s else { s with pend := some { p with left := p.left - 1 } }

/-- `n` engine steps with no host access between. -/
def engineSteps : Nat → State → State
  | 0, s => s
  | n + 1, s => engineSteps n (engineStep s)

end Sys2Proof.Machine
end

