-- ==== Sys2Proof/Machine/Window.lean ====
section
/-! DEFINITION. The register window (20_memory.md R50 to R60): which register an offset names, the host's reads
and writes, the command issue behind a CMD write, and the events of the world around the core. -/

namespace Sys2Proof.Machine

/-- The host-visible registers (R55). -/
inductive Reg where
  | cmd
  | status
  | key (j : Fin 4)
  | block (j : Fin 4)
  | nonce (j : Fin 4)
  | ctin (j : Fin 8)
  | out (j : Fin 8)
  /-- `RKW(i) = w[i]`. -/
  | rkw (i : Fin 44)
  deriving DecidableEq, Repr

/-- `offset(REG)`, the byte offset of a register (R55). -/
def regOffset : Reg → Nat
  | .cmd => 0x000
  | .status => 0x004
  | .key j => 0x010 + 4 * j.val
  | .block j => 0x020 + 4 * j.val
  | .nonce j => 0x030 + 4 * j.val
  | .ctin j => 0x040 + 4 * j.val
  | .out j => 0x060 + 4 * j.val
  | .rkw i => 0x100 + 4 * i.val

/-- The size of the window in bytes (R50). -/
def windowBytes : Nat := 0x400

/-- The register at an aligned offset of the window; `none` for a reserved offset (R55, R56). -/
def regAt (off : Nat) : Option Reg :=
  if off = 0x000 then some .cmd
  else if off = 0x004 then some .status
  else if h : 0x010 ≤ off ∧ off < 0x020 then some (.key ⟨(off - 0x010) / 4, by omega⟩)
  else if h : 0x020 ≤ off ∧ off < 0x030 then some (.block ⟨(off - 0x020) / 4, by omega⟩)
  else if h : 0x030 ≤ off ∧ off < 0x040 then some (.nonce ⟨(off - 0x030) / 4, by omega⟩)
  else if h : 0x040 ≤ off ∧ off < 0x060 then some (.ctin ⟨(off - 0x040) / 4, by omega⟩)
  else if h : 0x060 ≤ off ∧ off < 0x080 then some (.out ⟨(off - 0x060) / 4, by omega⟩)
  else if h : 0x100 ≤ off ∧ off < 0x1B0 then some (.rkw ⟨(off - 0x100) / 4, by omega⟩)
  else none

/-- What a register reads as; KEY is write-only and reads 0 (R57). -/
def readReg (s : State) : Reg → Word
  | .cmd => s.cmd
  | .status => statusWord s.status
  | .key _ => 0
  | .block j => s.block[j]
  | .nonce j => s.nonce[j]
  | .ctin j => s.ctin[j]
  | .out j => s.out[j]
  | .rkw i => s.rks[i]

/-- `MemRead(off, 4)`; a reserved offset reads 0 (R56, R57). -/
def memRead (s : State) (off : Nat) : Word :=
  match regAt off with
  | some r => readReg s r
  | none => 0

/-- `IssueCommand(v)`, the whole effect of a host write of `v` to CMD (30_encoding.md R78). -/
def issueCommand (v : Word) (s : State) : Host.Outcome State Fault Refusal :=
  match decode v with
  | .ok i => exec i s
  | .error _ => issueIllegal v s

/-- The effect of a host write on a register; OUT and RKW ignore it (R58). -/
def writeReg (v : Word) (s : State) : Reg → Host.Outcome State Fault Refusal
  | .cmd => issueCommand v s
  | .status => .next { s with status := statusWrite v s.status }
  | .key j => .next { s with key := s.key.set j v }
  | .block j => .next { s with block := s.block.set j v }
  | .nonce j => .next { s with nonce := s.nonce.set j v }
  | .ctin j => .next { s with ctin := s.ctin.set j v }
  | .out _ => .next s
  | .rkw _ => .next s

/-- `MemWrite(off, 4, v)`; a reserved offset ignores it (R56, R58). -/
def memWrite (off : Nat) (v : Word) (s : State) : Host.Outcome State Fault Refusal :=
  match regAt off with
  | some r => writeReg v s r
  | none => .next s

/-- The byte offset and the number of bytes of an access. -/
def accessPlace : Access → Nat × Nat
  | .write off bytes _ => (off, bytes)
  | .read off bytes => (off, bytes)

/-- The interface can express the access: it is one whole aligned register (R52), at an offset that the 8 bits of
`addr = offset[9:2]` carry (R51; log entry 6). -/
def accessExpressible (a : Access) : Bool :=
  (accessPlace a).2 == 4 && (accessPlace a).1 % 4 == 0 && decide ((accessPlace a).1 < windowBytes)

/-- A host access as one atomic event (R58, R59); one that cannot be expressed is refused (R52, 60_exceptions.md
R212). A read changes nothing but what the bus drives (R57). -/
def runAccess (a : Access) (s : State) : Host.Outcome State Fault Refusal :=
  if accessExpressible a then
    match a with
    | .write off _ v => memWrite off v s
    | .read off _ => .next { s with rdata := some (memRead s off) }
  else .refused .accessNotExpressible

/-- Every piece of the core's state takes its reset value (70_reset_and_hazards.md R230). What the world has
yet to do is no state of the core and stays. -/
def resetCore (s : State) : State := { State.reset with rdata := s.rdata, todo := s.todo }

/-- What the bus drives in a cycle with `rst_n = 0`: 0 on a read (R230). -/
def resetRdata : Option Access → Option Word
  | some (.read _ _) => some 0
  | _ => none

/-- A cycle with `rst_n = 0`: the core is reset, a host write is ignored and a host read returns 0 (R230). An access
that cannot be expressed is refused here too (R52; log entry 12). -/
def runResetCycle (a : Option Access) (s : State) : Host.Outcome State Fault Refusal :=
  if a.all accessExpressible then .next { resetCore s with rdata := resetRdata a }
  else .refused .accessNotExpressible

/-- One event of the world around the core. -/
def runEvent (e : Event) (s : State) : Host.Outcome State Fault Refusal :=
  match e with
  | .access a => runAccess a s
  | .engineStep => .next (engineStep s)
  | .engineFinish => .next (commit s)
  | .resetCycle a => runResetCycle a s

/-- The state in which the next event runs: the event is taken from the list, and the bus drives nothing yet. -/
def takeEvent (rest : List Event) (s : State) : State := { s with rdata := none, todo := rest }

/-- One step: the oldest event; with none left, the engine's timeless step, and the idle core holds (30_encoding.md
R81; 60_exceptions.md R210). -/
def stepState (s : State) : Host.Outcome State Fault Refusal :=
  match s.todo with
  | [] => .next (commit (takeEvent [] s))
  | e :: rest => runEvent e (takeEvent rest s)

end Sys2Proof.Machine
end

