-- ==== Sys2Proof/Machine/Step.lean ====
section
/-! DEFINITION. The step of the machine, and how one command is put before it. -/

namespace Sys2Proof.Machine

/-- One step of the machine. -/
def step (s : State) : Host.Outcome State Fault Refusal := stepState s

/-- `s` with a host write of the command word to CMD as the next event (20_memory.md R58): the core fetches no
program, the host issues each command (10_state.md R38; log entry 16). -/
def State.withFetchWord (s : State) (nbits w : Nat) : State :=
  { s with todo := .access (.write 0x000 4 (tableWord nbits w)) :: s.todo }

end Sys2Proof.Machine
end

