-- ==== Sys2Proof/Machine/HostProgram.lean ====
section
/-! DEFINITION. The host-program statements and the command mnemonics (30_encoding.md R83, R84). They are how a
host's intentions are written down, not behaviour of the core (92_eei_decisions.md D28). -/

namespace Sys2Proof.Machine

/-- A command as R83 writes it: an omitted field takes the op's required length, a field the op does not read
is encoded as 0. -/
def assemble (op : Op) (klen blen xlen : Option Nat) : Instr :=
  match op with
  | .expandKey => .expandKey (klen.getD 16) 0 0
  | .encryptBlock => .encryptBlock 0 (blen.getD 16) 0
  | .randEncrypt => .randEncrypt (klen.getD 16) (blen.getD 16) (xlen.getD 16)
  | .randDecrypt => .randDecrypt (klen.getD 16) 0 (xlen.getD 32)

/-- A decimal digit or an upper-case hexadecimal one. -/
def digitChar (n : Nat) : Char := "0123456789ABCDEF".toList.getD n '0'

/-- A declared length, 0..63, in decimal (R83). -/
def decimalText (n : Nat) : String :=
  if n < 10 then String.ofList [digitChar n] else String.ofList [digitChar (n / 10), digitChar (n % 10)]

/-- The eight hexadecimal digits of a word. -/
def hexText (v : Word) : String :=
  String.ofList ([28, 24, 20, 16, 12, 8, 4, 0].map fun k => digitChar (v.extractLsb' k 4).toNat)

/-- A command with every field it reads, in the order klen, blen, xlen (R83). -/
def instrText : Instr → String
  | .expandKey klen _ _ => "EXPAND_KEY klen=" ++ decimalText klen
  | .encryptBlock _ blen _ => "ENCRYPT_BLOCK blen=" ++ decimalText blen
  | .randEncrypt klen blen xlen =>
    "RAND_ENCRYPT klen=" ++ decimalText klen ++ " blen=" ++ decimalText blen ++ " xlen=" ++ decimalText xlen
  | .randDecrypt klen _ xlen => "RAND_DECRYPT klen=" ++ decimalText klen ++ " xlen=" ++ decimalText xlen

/-- The disassembler (R83). -/
def disassemble (v : Word) : String :=
  match decode v with
  | .ok i => instrText i
  | .error _ => ".illegal 0x" ++ hexText v

/-- The register banks of 16 bytes the host writes (R84). -/
inductive Bank where
  | key
  | block
  | nonce
  deriving DecidableEq, Repr

/-- Register `j` of a bank. -/
def bankReg : Bank → Fin 4 → Reg
  | .key, j => .key j
  | .block, j => .block j
  | .nonce, j => .nonce j

/-- The statements and pseudo-statements of R84. -/
inductive HostStmt where
  | wr (r : Reg) (imm32 : Word)
  | rd (r : Reg)
  | cmd (op : Op) (klen blen xlen : Option Nat)
  | wr128 (b : Bank) (h : Bytes16)
  | wr256 (h : Bytes32)
  | rd128 (b : Bank)
  | rd128Out
  | rd256Out
  | poll
  | clrovr
  deriving DecidableEq, Repr

/-- `wr REG, v` as a bus access. -/
def wrEvent (r : Reg) (v : Word) : Event := .access (.write (regOffset r) 4 v)

/-- `rd REG` as a bus access. -/
def rdEvent (r : Reg) : Event := .access (.read (regOffset r) 4)

/-- The bus accesses of a statement (R84). `poll` is the engine running to its commit and the last read of
STATUS: the reads before it return BUSY = 1 and change nothing (R57), and how many there are is time
(DESIGN CHOICE, log entry 17). -/
def expand : HostStmt → List Event
  | .wr r v => [wrEvent r v]
  | .rd r => [rdEvent r]
  | .cmd op klen blen xlen => [wrEvent .cmd (encode (assemble op klen blen xlen))]
  | .wr128 b h =>
    [wrEvent (bankReg b 0) (column h 0), wrEvent (bankReg b 1) (column h 1), wrEvent (bankReg b 2) (column h 2),
      wrEvent (bankReg b 3) (column h 3)]
  | .wr256 h =>
    [wrEvent (.ctin 0) (wordAt h 0), wrEvent (.ctin 1) (wordAt h 1), wrEvent (.ctin 2) (wordAt h 2),
      wrEvent (.ctin 3) (wordAt h 3), wrEvent (.ctin 4) (wordAt h 4), wrEvent (.ctin 5) (wordAt h 5),
      wrEvent (.ctin 6) (wordAt h 6), wrEvent (.ctin 7) (wordAt h 7)]
  | .rd128 b => [rdEvent (bankReg b 0), rdEvent (bankReg b 1), rdEvent (bankReg b 2), rdEvent (bankReg b 3)]
  | .rd128Out => [rdEvent (.out 0), rdEvent (.out 1), rdEvent (.out 2), rdEvent (.out 3)]
  | .rd256Out =>
    [rdEvent (.out 0), rdEvent (.out 1), rdEvent (.out 2), rdEvent (.out 3), rdEvent (.out 4), rdEvent (.out 5),
      rdEvent (.out 6), rdEvent (.out 7)]
  | .poll => [.engineFinish, rdEvent .status]
  | .clrovr => [wrEvent .status 0x00000010#32]

/-- The events of a host program, statement by statement (R84). -/
def expandProgram (prog : List HostStmt) : List Event := prog.flatMap expand

end Sys2Proof.Machine
end

