-- ==== Sys2Proof/Safety.lean ====
section
/-! DEFINITION. What holds of every state a run reaches (10_state.md R23 to R27, R36, R41). -/

namespace Sys2Proof.Machine

/-- The record PEND comes from a legal word that passed its checks, and some engine steps are left of its
latency (30_encoding.md R78, R81). -/
structure PendingOk (s : State) (p : Pending) : Prop where
  /-- The word in flight is the one CMD reads back (R21). -/
  word : s.cmd = p.word
  /-- The word decodes to a command of the record's operation, with the required lengths (R78). -/
  passed : ∃ i, decode p.word = .ok i ∧ opOf i = p.op ∧ lengthsRight i = true
  /-- At least one step is left (R81). -/
  pos : 1 ≤ p.left
  /-- No more steps are left than the operation's latency (R9). -/
  bounded : p.left ≤ latency p.op
  /-- ENCRYPT_BLOCK runs only under a schedule (44_block_cipher.md R166). -/
  schedule : p.op = .encryptBlock → s.status.rksValid = true

/-- The invariant of the core. -/
structure CoreInvariant (s : State) : Prop where
  /-- `PEND /= none` exactly when `BUSY = 1` (R36). -/
  pendBusy : s.pend.isSome = s.status.busy
  /-- `BUSY = 1` implies `DONE = 0` (R24). -/
  busyNotDone : s.status.busy = true → s.status.done = false
  /-- An error code is that of a completed command (R24, R27). -/
  errDone : s.status.errcode ≠ 0 → s.status.done = true
  /-- Codes 6 to 15 are never written (R27). -/
  errRange : s.status.errcode.toNat ≤ 5
  /-- The command in flight (R36). -/
  pending : ∀ p, s.pend = some p → PendingOk s p
  /-- With `RKS_VALID = 1` the store holds a schedule derived from a key (R25). -/
  validSchedule : s.status.rksValid = true → ∃ key, s.rks = keyExpansion key
  /-- With `RKS_VALID = 0` the store holds the 44 zero words of reset (R41). -/
  emptySchedule : s.status.rksValid = false → s.rks = .replicate 44 0

end Sys2Proof.Machine
end

