-- ==== Sys2Proof/Certificates/Slice0/Obligations.lean ====
section
/-! DEFINITION. The statements for the provers, from the numbered rules of the spec. -/

open Sys2Proof Sys2Proof.Machine

namespace Sys2Proof.Claims

/-- The next event is a host write of `v` at offset `off`. -/
def NextWrites (off : Nat) (v : Word) (s : State) : Prop := ∃ rest, s.todo = .access (.write off 4 v) :: rest

/-- The next event is a cycle with `rst_n = 0`. -/
def NextResets (s : State) : Prop := ∃ a rest, s.todo = .resetCycle a :: rest

/-- The next step commits the command in flight, whose record is `p`: it is the engine's last step, or its
timeless step, which a core with no event to come takes too (R81; log entry 3). -/
def NextCommits (s : State) (p : Pending) : Prop :=
  s.pend = some p ∧
    (s.todo = [] ∨ (∃ rest, s.todo = .engineFinish :: rest) ∨ (p.left = 1 ∧ ∃ rest, s.todo = .engineStep :: rest))

/-- The error code a command word ends with, `none` if it passes its checks: the table of R203 on the bits of
the word, with the fields of R70 as arithmetic. -/
def firstError (v : Word) (rksValid : Bool) : Option (BitVec 4) :=
  let op := v.toNat % 16
  let klen := v.toNat / 2 ^ 8 % 64
  let blen := v.toNat / 2 ^ 16 % 64
  let xlen := v.toNat / 2 ^ 24 % 64
  if v &&& 0xC0C0C0F0#32 ≠ 0 then some 5
  else if op = 1 then (if klen ≠ 16 then some 1 else none)
  else if op = 2 then (if blen ≠ 16 then some 2 else if rksValid = false then some 4 else none)
  else if op = 3 then (if klen ≠ 16 then some 1 else if xlen ≠ 16 then some 2 else if blen ≠ 16 then some 2 else none)
  else if op = 4 then (if xlen ≠ 32 then some 3 else if klen ≠ 16 then some 1 else none)
  else some 5

/-- The operation of a legal command word (R74). -/
def opOfWord (v : Word) : Op :=
  if v.toNat % 16 = 1 then .expandKey
  else if v.toNat % 16 = 2 then .encryptBlock
  else if v.toNat % 16 = 3 then .randEncrypt
  else .randDecrypt

/-- The state of a command that has just passed its checks (R78). -/
def started (op : Op) (v : Word) (key : Vector Word 4) (s : State) : State :=
  { s with
    cmd := v, key := key,
    status := { s.status with busy := true, done := false, errcode := 0 },
    pend := some { op := op, word := v, snap := snapshot s, left := latency op } }

/-- The state of a command that has just failed with a code (R79, R201). -/
def failed (code : BitVec 4) (v : Word) (s : State) : State :=
  { s with cmd := v, status := { s.status with busy := false, done := true, errcode := code } }

/-- The state after the commit of a command, less its results (R82). -/
def completed (s : State) : State :=
  { s with pend := none, status := { s.status with busy := false, done := true } }

/-- STATUS with OVR set to `b`. -/
def withOvr (b : Bool) (s : State) : State := { s with status := { s.status with ovr := b } }

/-- A read of STATUS before each of `n` engine steps, and one after them. -/
def pollLoop (n : Nat) : List Event :=
  (List.replicate n [rdEvent .status, .engineStep]).flatten ++ [rdEvent .status]

/-- The KEY registers cleared. -/
def zeroKey : Vector Word 4 := .replicate 4 0

end Sys2Proof.Claims

open Sys2Proof.Claims

/-! ## The functions -/

/-- 40_gf_arith.md R103: doubling and tripling are exclusive-or linear bijections, and `double(a) ^ timesThree(a) = a`. -/
def Obligations.DoublingAndTriplingAreLinearBijections : Prop :=
  (∀ a b, double (a ^^^ b) = double a ^^^ double b) ∧
  (∀ a b, timesThree (a ^^^ b) = timesThree a ^^^ timesThree b) ∧
  Function.Bijective double ∧ Function.Bijective timesThree ∧
  ∀ a, double a ^^^ timesThree a = a

/-- 41_sbox.md R111: the table equals, entry by entry, the inverse followed by the affine map. -/
def Obligations.SboxTableIsInverseThenAffine : Prop := ∀ a : Fin 256, substitute (.ofFin a) = sboxByConstruction (.ofFin a)

/-- 41_sbox.md R114: the S-box outputs are pairwise distinct; R112: no byte maps to itself or its complement. -/
def Obligations.SboxIsAPermutation : Prop :=
  Function.Bijective substitute ∧ ∀ a : Byte, substitute a ≠ a ∧ substitute a ≠ a ^^^ 0xFF#8

/-- 42_key_schedule.md R124: the first four words are the key, and every later word is the recurrence of the
words one and four before it. -/
def Obligations.KeyScheduleFollowsTheRecurrence : Prop :=
  ∀ key : Bytes16,
    (∀ (i m : Fin 4), wordByte ((keyExpansion key)[i.val]) m = byteAt key ⟨4 * i.val + m.val, by omega⟩) ∧
    ∀ (i : Nat) (h : 4 ≤ i ∧ i < 44),
      (keyExpansion key)[i] =
        (keyExpansion key)[i - 4] ^^^
          (if i % 4 = 0 then subWord (rotWord (keyExpansion key)[i - 1]) ^^^ rcon (i / 4)
            else (keyExpansion key)[i - 1])

/-- 42_key_schedule.md R129: round key 0 is the key itself. -/
def Obligations.RoundKeyZeroIsTheKey : Prop := ∀ key : Bytes16, roundKey (keyExpansion key) 0 = key

/-- 43_round_transforms.md R141, R146: SubBytes acts on each byte alone, and is a bijection on States. -/
def Obligations.SubBytesActsOnEachByte : Prop :=
  (∀ (s : Bytes16) (k : Fin 16), byteAt (subBytes s) k = substitute (byteAt s k)) ∧ Function.Bijective subBytes

/-- 43_round_transforms.md R142: ShiftRows moves byte `P[k]` to byte `k`, and four of it are the identity. -/
def Obligations.ShiftRowsPermutesTheBytes : Prop :=
  (∀ (s : Bytes16) (k : Fin 16),
    byteAt (shiftRows s) k = byteAt s (#v[0, 5, 10, 15, 4, 9, 14, 3, 8, 13, 2, 7, 12, 1, 6, 11][k])) ∧
  ∀ s : Bytes16, shiftRows (shiftRows (shiftRows (shiftRows s))) = s

/-- 43_round_transforms.md R143, R146: MixColumns is exclusive-or linear, four of it are the identity, columns of
equal bytes stay, and each column of the result depends on that column alone. -/
def Obligations.MixColumnsIsLinearOfOrderFour : Prop :=
  (∀ s t : Bytes16, mixColumns (s ^^^ t) = mixColumns s ^^^ mixColumns t) ∧
  (∀ s : Bytes16, mixColumns (mixColumns (mixColumns (mixColumns s))) = s) ∧
  (∀ a : Byte, mixColumn (wordOf a a a a) = wordOf a a a a) ∧
  ∀ (s : Bytes16) (c : Fin 4), column (mixColumns s) c = mixColumn (column s c)

/-- 44_block_cipher.md R168: for a fixed schedule the cipher is a permutation of the blocks. -/
def Obligations.CipherIsAPermutationOfBlocks : Prop := ∀ w : Schedule, Function.Bijective fun b => cipher b w

/-- 95_test_vectors.md L1-1, the source's known-answer test. -/
def Obligations.CipherMeetsTheKnownAnswer : Prop :=
  cipher 0x00112233445566778899aabbccddeeff#128 (keyExpansion 0x000102030405060708090a0b0c0d0e0f#128) =
    0x69c4e0d86a7b0430d8cdb78070b4c55a#128

/-- 44_block_cipher.md R164, 42_key_schedule.md R127: the iterative engine's round counter never skips, repeats or
goes past its last step, and its work is the cipher of R160 and the schedule of R124. -/
def Obligations.IterativeEngineComputesCipherAndSchedule : Prop :=
  (∀ (block : Bytes16) (w : Schedule) (n : Nat),
    (cipherWorkSteps w n (cipherWorkStart block w)).rnd = min (n + 1) 11 ∧
      (10 ≤ n → (cipherWorkSteps w n (cipherWorkStart block w)).s = cipher block w)) ∧
  ∀ (key : Bytes16) (n : Nat),
    (keyWorkSteps n (keyWorkStart key)).i = min (n + 4) 44 ∧
      (40 ≤ n → (keyWorkSteps n (keyWorkStart key)).w = keyExpansion key)

/-- 45_randomized_scheme.md R186: a nonce used twice under one key exposes the exclusive-or of the plaintexts. -/
def Obligations.NonceReuseExposesThePlaintexts : Prop :=
  ∀ p q key nonce : Bytes16,
    secondHalf (randEnc p key nonce) ^^^ secondHalf (randEnc q key nonce) = p ^^^ q

/-- 45_randomized_scheme.md R182, R187: flipping payload bits flips the same bits of the plaintext and no other. -/
def Obligations.PayloadBitsAreMalleable : Prop :=
  ∀ nonce payload flips key : Bytes16,
    randDec (nonce ++ (payload ^^^ flips)) key = randDec (nonce ++ payload) key ^^^ flips

/-! ## Encoding -/

/-- 30_encoding.md R70 to R75: decoding the word of a well-formed command gives the command back, and the word of
what a word decodes to is the word. -/
def Obligations.DecodeInvertsEncode : Prop :=
  (∀ i : Instr, i.wellFormed = true → decode (encode i) = .ok i) ∧
  ∀ (v : Word) (i : Instr), decode v = .ok i → i.wellFormed = true ∧ encode i = v

/-- 95_test_vectors.md CMD-1: words of the spec and what they decode to. -/
def Obligations.SpecWordsDecodeAsListed : Prop :=
  decode 0x00001001#32 = .ok (.expandKey 16 0 0) ∧ decode 0x3F3F1001#32 = .ok (.expandKey 16 63 63) ∧
  decode 0x00100002#32 = .ok (.encryptBlock 0 16 0) ∧ decode 0x10101003#32 = .ok (.randEncrypt 16 16 16) ∧
  decode 0x20001004#32 = .ok (.randDecrypt 16 0 32) ∧ decode 0x1F001004#32 = .ok (.randDecrypt 16 0 31) ∧
  decode 0x00001081#32 = .error .reservedBits ∧ decode 0x40001001#32 = .error .reservedBits ∧
  decode 0x00000000#32 = .error .reservedOp ∧ decode 0x0000000F#32 = .error .reservedOp

/-- 30_encoding.md R75: the illegal words are exactly those with a reserved bit or a reserved OP; every other word
is one of the four commands; an illegal word is accepted and fails with IllegalCommand, changing CMD, DONE and
ERRCODE alone. -/
def Obligations.IllegalWordsFailWithIllegalCommand : Prop :=
  (∀ v : Word,
    (∃ e, decode v = .error e) ↔ (v &&& 0xC0C0C0F0#32 ≠ 0 ∨ v.toNat % 16 = 0 ∨ 5 ≤ v.toNat % 16)) ∧
  ∀ (v : Word) (s : State), (∃ e, decode v = .error e) → s.status.busy = false →
    issueCommand v s =
      .next { s with cmd := v, status := { s.status with done := true, errcode := 5 } }

/-- 30_encoding.md R76: a length field the operation does not read has no effect: the outcome is the same but for
the command word recorded. -/
def Obligations.UnreadLengthsHaveNoEffect : Prop :=
  (∀ (i j : Instr) (s t : State),
    ((∃ k b x b' x', i = .expandKey k b x ∧ j = .expandKey k b' x') ∨
      (∃ k b x k' x', i = .encryptBlock k b x ∧ j = .encryptBlock k' b x') ∨
      (∃ k b x b', i = .randDecrypt k b x ∧ j = .randDecrypt k b' x)) →
    s.status.busy = false → exec i s = .next t →
    exec j s =
      .next { t with
        cmd := encode j,
        pend := if t.status.busy then t.pend.map fun p => { p with word := encode j } else t.pend }) ∧
  decode 0x3F3F1001#32 = .ok (.expandKey 16 63 63)

/-! ## Commands -/

/-- 30_encoding.md R78: for a well-formed command, the meaning is the issue of its command word. -/
def Obligations.ExecIsTheIssueOfItsWord : Prop :=
  ∀ (i : Instr) (s : State), i.wellFormed = true → exec i s = issueCommand (encode i) s

/-- 30_encoding.md R78, R79; 60_exceptions.md R201, R203: IssueCommand of any word in any state. -/
def Obligations.IssueCommandFollowsTheErrorTable : Prop :=
  ∀ (v : Word) (s : State),
    issueCommand v s =
      .next
        (if s.status.busy then withOvr true s
        else
          match firstError v s.status.rksValid with
          | some code => failed code v s
          | none => started (opOfWord v) v (if opOfWord v = .encryptBlock then s.key else zeroKey) s)

/-- 42_key_schedule.md R128: an EXPAND_KEY issued with `KLEN = 16` while idle is accepted, clears KEY, and after
LAT_EXPAND engine steps has written the schedule of the key and RKS_VALID, and nothing else. -/
def Obligations.ExpandKeyExpandsTheKey : Prop :=
  ∀ (blen xlen : Nat) (s : State), s.status.busy = false →
    ∃ t, exec (.expandKey 16 blen xlen) s = .next t ∧
      t = started .expandKey (encode (.expandKey 16 blen xlen)) zeroKey s ∧
      engineSteps Config.latExpand t =
        completed { t with rks := keyExpansion (bank16 s.key), status := { t.status with rksValid := true } }

/-- 44_block_cipher.md R166: an ENCRYPT_BLOCK issued with `BLEN = 16` while idle under a schedule is accepted, and
after LAT_ENCRYPT engine steps has written the ciphertext of BLOCK to OUT, and nothing else. -/
def Obligations.EncryptBlockEncryptsTheBlock : Prop :=
  ∀ (klen xlen : Nat) (s : State), s.status.busy = false → s.status.rksValid = true →
    ∃ t, exec (.encryptBlock klen 16 xlen) s = .next t ∧
      t = started .encryptBlock (encode (.encryptBlock klen 16 xlen)) s.key s ∧
      engineSteps Config.latEncrypt t =
        completed { t with out := words32 (cipher (bank16 s.block) s.rks ++ 0#128) }

/-- 45_randomized_scheme.md R184: a RAND_ENCRYPT issued with the three lengths 16 while idle is accepted, clears KEY,
and after LAT_RAND_ENC engine steps has written nonce and payload to OUT, and nothing else. -/
def Obligations.RandEncryptEncryptsTheBlock : Prop :=
  ∀ s : State, s.status.busy = false →
    ∃ t, exec (.randEncrypt 16 16 16) s = .next t ∧
      t = started .randEncrypt (encode (.randEncrypt 16 16 16)) zeroKey s ∧
      engineSteps Config.latRandEnc t =
        completed { t with
          out := words32
            (bank16 s.nonce ++ (bank16 s.block ^^^ cipher (bank16 s.nonce) (keyExpansion (bank16 s.key)))) }

/-- 45_randomized_scheme.md R188: a RAND_DECRYPT issued with `KLEN = 16` and `XLEN = 32` while idle is accepted, clears
KEY, and after LAT_RAND_DEC engine steps has written the plaintext to OUT, and nothing else. -/
def Obligations.RandDecryptDecryptsTheCiphertext : Prop :=
  ∀ (blen : Nat) (s : State), s.status.busy = false →
    ∃ t, exec (.randDecrypt 16 blen 32) s = .next t ∧
      t = started .randDecrypt (encode (.randDecrypt 16 blen 32)) zeroKey s ∧
      engineSteps Config.latRandDec t =
        completed { t with
          out := words32
            ((secondHalf (bank32 s.ctin) ^^^ cipher (firstHalf (bank32 s.ctin)) (keyExpansion (bank16 s.key))) ++
              0#128) }

/-- What issuing any of the four commands leaves unchanged: every register but CMD, STATUS and KEY, RKS_VALID, and
so every offset of the window but those of CMD and STATUS; KEY is unchanged or cleared, and OVR is unchanged unless
the word is dropped. -/
def Obligations.CommandIssueFrame : Prop :=
  ∀ (i : Instr) (s t : State), exec i s = .next t →
    t.block = s.block ∧ t.nonce = s.nonce ∧ t.ctin = s.ctin ∧ t.out = s.out ∧ t.rks = s.rks ∧
    t.status.rksValid = s.status.rksValid ∧ (s.status.busy = false → t.status.ovr = s.status.ovr) ∧
    (t.key = s.key ∨ (t.key = zeroKey ∧ opOf i ≠ .encryptBlock ∧ s.status.busy = false)) ∧
    (s.status.busy = true → t.pend = s.pend ∧ t.cmd = s.cmd) ∧
    t.rdata = s.rdata ∧ t.todo = s.todo ∧
    ∀ off, off ≠ 0x000 → off ≠ 0x004 → memRead t off = memRead s off

/-! ## Steps -/

/-- A step at a CMD write runs the decoded command: the meaning of the instruction, in the state with the event
taken. The decoded instruction is well-formed. The list of events and the place of the fetched word are the model's
choice (log entries 1 and 16). -/
def Obligations.StepRunsTheDecodedCommand : Prop :=
  (∀ (s : State) (v : Word) (rest : List Event) (i : Instr),
    s.todo = .access (.write 0x000 4 v) :: rest → decode v = .ok i →
    i.wellFormed = true ∧ step s = exec i (takeEvent rest s)) ∧
  (∀ (s : State) (v : Word) (rest : List Event) (e : DecodeError),
    s.todo = .access (.write 0x000 4 v) :: rest → decode v = .error e →
    step s = issueIllegal v (takeEvent rest s)) ∧
  ∀ (s : State) (w : Nat) (i : Instr), w < 2 ^ 32 → decodeTableWord 32 w = some i →
    step (s.withFetchWord 32 w) = exec i (takeEvent s.todo s)

/-- 30_encoding.md R81, 60_exceptions.md R210: with no command in flight and nothing asked of it the core holds every
piece of its state. That the bus drives nothing then is the model's choice (log entry 2). -/
def Obligations.IdleCoreHolds : Prop :=
  ∀ s : State, s.pend = none → s.todo = [] → step s = .next { s with rdata := none }

/-- 30_encoding.md R81: the engine has exactly one step when `PEND /= none` and none otherwise; it counts down, and the
last one commits; `left` steps are the timeless step. -/
def Obligations.EngineStepsCountDownToTheCommit : Prop :=
  (∀ s : State, s.pend = none → engineStep s = s ∧ commit s = s) ∧
  (∀ (s : State) (p : Pending), s.pend = some p → 1 ≤ p.left →
    engineStep s =
      (if p.left = 1 then commit s else { s with pend := some { p with left := p.left - 1 } })) ∧
  ∀ (s : State) (p : Pending), s.pend = some p → 1 ≤ p.left → engineSteps p.left s = commit s

/-- 30_encoding.md R82: the commit writes the op's results, clears PEND and BUSY, sets DONE, and leaves ERRCODE. -/
def Obligations.CommitWritesTheResults : Prop :=
  ∀ (s : State) (p : Pending), s.pend = some p →
    commit s =
      completed
        (match p.op with
        | .expandKey => { s with rks := keyExpansion p.snap.key, status := { s.status with rksValid := true } }
        | .encryptBlock => { s with out := words32 (cipher p.snap.block s.rks ++ 0#128) }
        | .randEncrypt => { s with out := words32 (randEnc p.snap.block p.snap.key p.snap.nonce) }
        | .randDecrypt => { s with out := words32 (randDec p.snap.ctin p.snap.key ++ 0#128) })

/-- 10_state.md R23: what sets BUSY and what clears it, and that nothing else writes it. -/
def Obligations.BusyIsWrittenByAcceptanceCommitAndReset : Prop :=
  ∀ s t : State, step s = .next t →
    (∀ v, NextWrites 0x000 v s → s.status.busy = false →
      t.status.busy = (firstError v s.status.rksValid).isNone) ∧
    (∀ p, NextCommits s p → t.status.busy = false) ∧
    (NextResets s → t.status.busy = false) ∧
    (t.status.busy ≠ s.status.busy →
      (∃ v, NextWrites 0x000 v s ∧ s.status.busy = false) ∨ (∃ p, NextCommits s p) ∨ NextResets s)

/-- 10_state.md R24: what clears DONE and what sets it, and that nothing else writes it. -/
def Obligations.DoneIsWrittenByAcceptanceCompletionAndReset : Prop :=
  ∀ s t : State, step s = .next t →
    (∀ v, NextWrites 0x000 v s → s.status.busy = false →
      t.status.done = (firstError v s.status.rksValid).isSome) ∧
    (∀ p, NextCommits s p → t.status.done = true) ∧
    (NextResets s → t.status.done = false) ∧
    (t.status.done ≠ s.status.done →
      (∃ v, NextWrites 0x000 v s ∧ s.status.busy = false) ∨ (∃ p, NextCommits s p) ∨ NextResets s)

/-- 10_state.md R27: ERRCODE is 0 from acceptance, the command's code when it fails, 0 when it commits; nothing but
acceptance and reset writes it, and values 6 to 15 never are. -/
def Obligations.ErrcodeIsTheCodeOfTheLastCommand : Prop :=
  ∀ s t : State, step s = .next t →
    (∀ v, NextWrites 0x000 v s → s.status.busy = false →
      t.status.errcode = (firstError v s.status.rksValid).getD 0) ∧
    (NextResets s → t.status.errcode = 0) ∧
    (t.status.errcode ≠ s.status.errcode → (∃ v, NextWrites 0x000 v s ∧ s.status.busy = false) ∨ NextResets s) ∧
    (CoreInvariant s → (∀ p, NextCommits s p → t.status.errcode = 0) ∧ t.status.errcode.toNat ≤ 5)

/-- 10_state.md R26: a CMD write while busy sets OVR and is dropped with no other effect; OVR stays until a STATUS
write with bit 4 or reset; OVR does not block later commands. -/
def Obligations.OverrunIsStickyAndHarmless : Prop :=
  (∀ (v : Word) (s : State), s.status.busy = true → memWrite 0x000 v s = .next (withOvr true s)) ∧
  (∀ s t : State, step s = .next t → s.status.ovr = true →
    (t.status.ovr = false ↔ ((∃ v, v.getLsbD 4 = true ∧ NextWrites 0x004 v s) ∨ NextResets s))) ∧
  (∀ s t : State, step s = .next t → s.status.ovr = false → t.status.ovr = true →
    s.status.busy = true ∧ ∃ v, NextWrites 0x000 v s) ∧
  ∀ (v : Word) (b : Bool) (s t : State), s.status.busy = false → issueCommand v s = .next t →
    issueCommand v (withOvr b s) = .next (withOvr b t)

/-- 10_state.md R25: RKS_VALID is 0 after reset, becomes 1 when an EXPAND_KEY commits, and nothing but reset clears it;
under the invariant, before a step and after it, it is 1 exactly if RKS holds a schedule derived from a key, and the
store is all zero if it is 0; ENCRYPT_BLOCK reads it. -/
def Obligations.RksValidTellsThatAScheduleWasExpanded : Prop :=
  State.reset.status.rksValid = false ∧
  (∀ s t : State, step s = .next t →
    (∀ p, NextCommits s p → p.op = .expandKey → t.status.rksValid = true) ∧
    (NextResets s → t.status.rksValid = false) ∧
    (s.status.rksValid = false → t.status.rksValid = true → ∃ p, NextCommits s p ∧ p.op = .expandKey) ∧
    (s.status.rksValid = true → t.status.rksValid = false → NextResets s)) ∧
  (∀ s : State, CoreInvariant s →
    (s.status.rksValid = true ↔ ∃ key, s.rks = keyExpansion key) ∧
    (s.status.rksValid = false → s.rks = .replicate 44 0)) ∧
  (∀ s t : State, CoreInvariant s → step s = .next t →
    (t.status.rksValid = true ↔ ∃ key, t.rks = keyExpansion key) ∧
    (t.status.rksValid = false → t.rks = .replicate 44 0)) ∧
  ∀ (klen xlen : Nat) (s : State), s.status.busy = false →
    ((∃ t, exec (.encryptBlock klen 16 xlen) s = .next t ∧ t.status.errcode = 4) ↔ s.status.rksValid = false)

/-- 10_state.md R21: a write of CMD is a command issue; CMD reads as the last word accepted, failed ones included, 0
after reset; a dropped word is not recorded. -/
def Obligations.CmdReadsBackTheLastAcceptedWord : Prop :=
  memRead .reset 0x000 = 0 ∧ (∀ s : State, memRead s 0x000 = s.cmd) ∧
  (∀ (v : Word) (s : State), memWrite 0x000 v s = issueCommand v s) ∧
  (∀ (v : Word) (s t : State), issueCommand v s = .next t →
    t.cmd = (if s.status.busy then s.cmd else v)) ∧
  ∀ s t : State, step s = .next t → t.cmd ≠ s.cmd →
    (∃ v, NextWrites 0x000 v s ∧ s.status.busy = false ∧ t.cmd = v) ∨ (NextResets s ∧ t.cmd = 0)

/-- 10_state.md R22: the fields of STATUS, bit by bit, their reset value, and that a host write of STATUS clears OVR if
its bit 4 is 1 and does nothing else. -/
def Obligations.StatusHasItsFieldsAndNoOthers : Prop :=
  (∀ s : State,
    (memRead s 0x004).getLsbD 0 = s.status.busy ∧ (memRead s 0x004).getLsbD 1 = s.status.done ∧
    (memRead s 0x004).getLsbD 2 = s.status.rksValid ∧ (memRead s 0x004).getLsbD 3 = false ∧
    (memRead s 0x004).getLsbD 4 = s.status.ovr ∧ (memRead s 0x004).extractLsb' 5 3 = 0#3 ∧
    (memRead s 0x004).extractLsb' 8 4 = s.status.errcode ∧ (memRead s 0x004).extractLsb' 12 20 = 0#20) ∧
  memRead .reset 0x004 = 0 ∧
  ∀ (v : Word) (s : State), memWrite 0x004 v s = .next (withOvr (s.status.ovr && !v.getLsbD 4) s)

/-! ## Registers and the window -/

/-- 10_state.md R28: KEY holds the key, byte `4j+m` being byte `m` of KEYj; a host read of it gives 0; the acceptance of
a passing EXPAND_KEY, RAND_ENCRYPT or RAND_DECRYPT clears it after its snapshot. -/
def Obligations.KeyIsWriteOnlyAndClearedWhenTaken : Prop :=
  (∀ (s : State) (j m : Fin 4), byteAt (snapshot s).key ⟨4 * j.val + m.val, by omega⟩ = wordByte s.key[j] m) ∧
  (∀ (s : State) (j : Fin 4), memRead s (0x010 + 4 * j.val) = 0) ∧
  ∀ (i : Instr) (s t : State), s.status.busy = false → exec i s = .next t → t.status.busy = true →
    (opOf i ≠ .encryptBlock → t.key = zeroKey) ∧ (opOf i = .encryptBlock → t.key = s.key) ∧
    ∃ p, t.pend = some p ∧ p.snap.key = bank16 s.key

/-- 10_state.md R32: OUT is read-only and holds the result of the last committed command: the 16-byte result and zeros,
or the 32-byte ciphertext; EXPAND_KEY, failing commands and commands in flight leave it. -/
def Obligations.OutHoldsTheLastResult : Prop :=
  (∀ (s : State) (j : Fin 8) (v : Word),
    memRead s (0x060 + 4 * j.val) = s.out[j] ∧ memWrite (0x060 + 4 * j.val) v s = .next s) ∧
  (∀ (s t : State) (p : Pending), step s = .next t → NextCommits s p →
    (p.op = .expandKey → t.out = s.out) ∧
    (p.op = .encryptBlock →
      firstHalf (bank32 t.out) = cipher p.snap.block s.rks ∧ secondHalf (bank32 t.out) = 0) ∧
    (p.op = .randEncrypt → bank32 t.out = randEnc p.snap.block p.snap.key p.snap.nonce) ∧
    (p.op = .randDecrypt →
      firstHalf (bank32 t.out) = randDec p.snap.ctin p.snap.key ∧ secondHalf (bank32 t.out) = 0)) ∧
  (∀ s t : State, step s = .next t → t.out ≠ s.out →
    (∃ p, NextCommits s p ∧ p.op ≠ .expandKey) ∨ NextResets s)

/-- 10_state.md R33, R34: only the commit of EXPAND_KEY and reset change RKS, and the commit replaces all of it. -/
def Obligations.ScheduleChangesOnlyAtAnExpandCommit : Prop :=
  ∀ s t : State, step s = .next t → t.rks ≠ s.rks →
    (∃ p, NextCommits s p ∧ p.op = .expandKey ∧ t.rks = keyExpansion p.snap.key) ∨
      (NextResets s ∧ t.rks = .replicate 44 0)

/-- 20_memory.md R57: what every host read returns, that it changes no state, and that reads are idempotent. -/
def Obligations.HostReadsFollowTheTable : Prop :=
  (∀ s : State,
    memRead s 0x000 = s.cmd ∧
    memRead s 0x004 =
      ((s.status.errcode.setWidth 32 <<< 8) ||| ((BitVec.ofBool s.status.ovr).setWidth 32 <<< 4) |||
        ((BitVec.ofBool s.status.rksValid).setWidth 32 <<< 2) ||| ((BitVec.ofBool s.status.done).setWidth 32 <<< 1) |||
        (BitVec.ofBool s.status.busy).setWidth 32) ∧
    (∀ j : Fin 4, memRead s (0x010 + 4 * j.val) = 0 ∧ memRead s (0x020 + 4 * j.val) = s.block[j] ∧
      memRead s (0x030 + 4 * j.val) = s.nonce[j]) ∧
    (∀ j : Fin 8, memRead s (0x040 + 4 * j.val) = s.ctin[j] ∧ memRead s (0x060 + 4 * j.val) = s.out[j]) ∧
    (∀ i : Fin 44, memRead s (0x100 + 4 * i.val) = s.rks[i]) ∧
    ∀ off, off % 4 = 0 → (∀ r, regOffset r ≠ off) → memRead s off = 0) ∧
  (∀ (s : State) (off : Nat), off % 4 = 0 → off < 0x400 →
    runAccess (.read off 4) s = .next { s with rdata := some (memRead s off) }) ∧
  ∀ (s : State) (off : Nat) (r : Option Word), memRead { s with rdata := r } off = memRead s off

/-- 20_memory.md R58: what every host write does, busy or not; the command in flight is untouched by a write of an input
register; writes of input registers are idempotent and a CMD write is not. -/
def Obligations.HostWritesFollowTheTable : Prop :=
  (∀ (v : Word) (s : State),
    memWrite 0x000 v s = issueCommand v s ∧
    memWrite 0x004 v s = .next (if v.getLsbD 4 then withOvr false s else s) ∧
    (∀ j : Fin 4, memWrite (0x010 + 4 * j.val) v s = .next { s with key := s.key.set j v } ∧
      memWrite (0x020 + 4 * j.val) v s = .next { s with block := s.block.set j v } ∧
      memWrite (0x030 + 4 * j.val) v s = .next { s with nonce := s.nonce.set j v }) ∧
    (∀ j : Fin 8, memWrite (0x040 + 4 * j.val) v s = .next { s with ctin := s.ctin.set j v } ∧
      memWrite (0x060 + 4 * j.val) v s = .next s) ∧
    (∀ i : Fin 44, memWrite (0x100 + 4 * i.val) v s = .next s) ∧
    ∀ off, off % 4 = 0 → (∀ r, regOffset r ≠ off) → memWrite off v s = .next s) ∧
  (∀ (s : State) (off : Nat) (v : Word), off % 4 = 0 → off < 0x400 →
    runAccess (.write off 4 v) s = memWrite off v s) ∧
  (∀ (v : Word) (s t : State) (off : Nat), off ≠ 0x000 → memWrite off v s = .next t →
    t.pend = s.pend ∧ memWrite off v t = .next t) ∧
  ∃ (v : Word) (s t : State), memWrite 0x000 v s = .next t ∧ memWrite 0x000 v t ≠ .next t

/-- 20_memory.md R56: a reserved offset reads 0, ignores writes and raises no error. -/
def Obligations.ReservedOffsetsReadZeroAndIgnoreWrites : Prop :=
  ∀ (off : Nat) (v : Word) (s : State), off % 4 = 0 →
    (off = 0x008 ∨ off = 0x00C ∨ (0x080 ≤ off ∧ off ≤ 0x0FC) ∨ (0x1B0 ≤ off ∧ off ≤ 0x3FC)) →
    runAccess (.read off 4) s = .next { s with rdata := some 0 } ∧ runAccess (.write off 4 v) s = .next s

/-- 20_memory.md R52: a host access moves exactly 32 bits of one register; a sub-word, wider or misaligned access is
refused, and a whole aligned register of the window never is. -/
def Obligations.OnlyWholeAlignedRegistersAreAccessed : Prop :=
  (∀ (off bytes : Nat) (v : Word) (s : State), (bytes ≠ 4 ∨ off % 4 ≠ 0) →
    runAccess (.read off bytes) s = .refused .accessNotExpressible ∧
      runAccess (.write off bytes v) s = .refused .accessNotExpressible) ∧
  ∀ (off : Nat) (v : Word) (s : State), off % 4 = 0 → off < 0x400 →
    (∃ t, runAccess (.read off 4) s = .next t) ∧ ∃ t, runAccess (.write off 4 v) s = .next t

/-- 60_exceptions.md R212, 20_memory.md R51: an access at an offset outside the window is refused, since `addr`, the
bits 9:2 of the offset, cannot carry it. That R51 makes it inexpressible is the model's reading (log entry 6). -/
def Obligations.AccessesOutsideTheWindowAreRefused : Prop :=
  ∀ (off bytes : Nat) (v : Word) (s : State), 0x400 ≤ off →
    runAccess (.read off bytes) s = .refused .accessNotExpressible ∧
      runAccess (.write off bytes v) s = .refused .accessNotExpressible

/-- 10_state.md R28, R36: the KEY registers and the record PEND show in no access but a CMD write. In two states that
differ in these alone, an access that is not a CMD write drives the same value on the bus and leaves states that
differ in these alone. -/
def Obligations.OnlyACmdWriteTellsKeyOrPendingApart : Prop :=
  ∀ (a : Access) (s t : State) (key : Vector Word 4) (pend : Option Pending),
    (∀ bytes v, a ≠ .write 0x000 bytes v) → runAccess a s = .next t →
    ∃ key', runAccess a { s with key := key, pend := pend } = .next { t with key := key', pend := pend }

/-- 70_reset_and_hazards.md R245, 10_state.md R36: a host write of KEY, BLOCK, NONCE or CTIN and an engine step
commute, so the command in flight does not see the write. -/
def Obligations.InputWritesDoNotReachTheCommandInFlight : Prop :=
  ∀ (r : Reg) (v : Word) (s t : State),
    ((∃ j, r = .key j) ∨ (∃ j, r = .block j) ∨ (∃ j, r = .nonce j) ∨ (∃ j, r = .ctin j)) →
    memWrite (regOffset r) v s = .next t →
    memWrite (regOffset r) v (engineStep s) = .next (engineStep t)

/-- 70_reset_and_hazards.md R246: the engine steps a command takes depend on the operation alone: two states that hold
different data but accept the same word run the same number of steps. -/
def Obligations.LatencyDoesNotDependOnData : Prop :=
  ∀ (v : Word) (s s' t t' : State) (n : Nat),
    s.status.busy = false → s'.status.busy = false → s.pend = none → s'.pend = none →
    s.status.rksValid = s'.status.rksValid →
    issueCommand v s = .next t → issueCommand v s' = .next t' →
    (engineSteps n t).status.busy = (engineSteps n t').status.busy ∧
      (engineSteps n t).pend.map (·.left) = (engineSteps n t').pend.map (·.left)

/-- 30_encoding.md R81, 60_exceptions.md R212: a command in flight stays BUSY until its last engine step and is DONE from
then on. -/
def Obligations.AcceptedCommandsComplete : Prop :=
  ∀ (s : State) (p : Pending) (n : Nat), CoreInvariant s → s.pend = some p →
    (n < p.left → (engineSteps n s).status.busy = true ∧ (engineSteps n s).status.done = false) ∧
    (p.left ≤ n → engineSteps n s = commit s ∧ (engineSteps n s).status.busy = false ∧
      (engineSteps n s).status.done = true)

/-- 44_block_cipher.md R165: two ENCRYPT_BLOCK commands with the same BLOCK and the same RKS commit the same OUT, whatever
else the two states hold. -/
def Obligations.SameBlockAndScheduleSameOut : Prop :=
  ∀ (klen xlen klen' xlen' : Nat) (s s' t t' : State),
    s.status.busy = false → s'.status.busy = false → s.status.rksValid = true → s'.status.rksValid = true →
    s.block = s'.block → s.rks = s'.rks →
    exec (.encryptBlock klen 16 xlen) s = .next t → exec (.encryptBlock klen' 16 xlen') s' = .next t' →
    (engineSteps Config.latEncrypt t).out = (engineSteps Config.latEncrypt t').out

/-! ## The whole machine -/

/-- The invariant holds at reset. -/
def Obligations.InvHoldsAtReset : Prop := CoreInvariant State.reset

/-- The invariant is kept by every step that answers a next state, from every state that has it. -/
def Obligations.StepKeepsInv : Prop := ∀ s t : State, CoreInvariant s → step s = .next t → CoreInvariant t

/-- 10_state.md R40: after reset every register is zero and no command is in flight; a reset in any state, a command
in flight or not, leaves exactly that. -/
def Obligations.ResetLeavesEveryRegisterZero : Prop :=
  (∀ r : Reg, readReg State.reset r = 0) ∧
  State.reset.status = { busy := false, done := false, rksValid := false, ovr := false, errcode := 0 } ∧
  State.reset.key = .replicate 4 0 ∧ State.reset.pend = none ∧
  ∀ (s : State) (rest : List Event), s.todo = .resetCycle none :: rest →
    step s = .next { State.reset with todo := rest }

/-- 70_reset_and_hazards.md R230, R231: a cycle with `rst_n = 0` puts every piece of state to its reset value, whatever
was in flight, ignores a host write, and returns 0 on a host read. The form of the event is the model's choice (log
entry 11). -/
def Obligations.ResetCycleRestoresTheResetState : Prop :=
  ∀ (s : State) (rest : List Event) (off : Nat) (v : Word), off % 4 = 0 → off < 0x400 →
    (s.todo = .resetCycle none :: rest → step s = .next { State.reset with todo := rest }) ∧
    (s.todo = .resetCycle (some (.write off 4 v)) :: rest → step s = .next { State.reset with todo := rest }) ∧
    (s.todo = .resetCycle (some (.read off 4)) :: rest →
      step s = .next { State.reset with rdata := some 0, todo := rest })

/-- 45_randomized_scheme.md R185: a RAND_DECRYPT whose CTIN is the OUT of a RAND_ENCRYPT and whose KEY is that command's
key commits that command's BLOCK. -/
def Obligations.DecryptionRecoversTheBlock : Prop :=
  (∀ p key nonce : Bytes16, randDec (randEnc p key nonce) key = p) ∧
  ∀ (s u : State) (blen : Nat), s.status.busy = false → u.status.busy = false → u.key = s.key →
    ∃ t, exec (.randEncrypt 16 16 16) s = .next t ∧
      (u.ctin = (engineSteps Config.latRandEnc t).out →
        ∃ t', exec (.randDecrypt 16 blen 32) u = .next t' ∧
          firstHalf (bank32 (engineSteps Config.latRandDec t').out) = bank16 s.block ∧
          secondHalf (bank32 (engineSteps Config.latRandDec t').out) = 0)

/-- 30_encoding.md R84 (poll), with log entry 17: reading STATUS between the engine's steps until BUSY is 0 ends in the
same state as the model's two events for `poll`. Under the invariant every read before the last drives a word with
BUSY, bit 0, set, and the last one a word with it clear, so the loop ends at the last read and not before. -/
def Obligations.PollIsTheLoopOfReads : Prop :=
  (∀ (s : State) (p : Pending), s.pend = some p → 1 ≤ p.left →
    Host.Core.run core (2 * p.left + 1) { s with todo := pollLoop p.left } =
      Host.Core.run core 2 { s with todo := expand .poll }) ∧
  ∀ (s : State) (p : Pending), CoreInvariant s → s.pend = some p →
    (∀ n, n < p.left → ∃ (t : State) (v : Word),
      Host.Core.run core (2 * n + 1) { s with todo := pollLoop p.left } = .next t ∧
        t.rdata = some v ∧ v.getLsbD 0 = true) ∧
    ∃ (t : State) (v : Word),
      Host.Core.run core (2 * p.left + 1) { s with todo := pollLoop p.left } = .next t ∧
        t.rdata = some v ∧ v.getLsbD 0 = false

/-- 30_encoding.md R74, R83: a mnemonic with its fields omitted is the canonical word of its row, and the fields given
are encoded. -/
def Obligations.MnemonicsAssembleToTheirWords : Prop :=
  encode (assemble .expandKey none none none) = 0x00001001#32 ∧
  encode (assemble .encryptBlock none none none) = 0x00100002#32 ∧
  encode (assemble .randEncrypt none none none) = 0x10101003#32 ∧
  encode (assemble .randDecrypt none none none) = 0x20001004#32 ∧
  encode (assemble .randDecrypt none none (some 31)) = 0x1F001004#32 ∧
  encode (assemble .expandKey (some 15) none none) = 0x00000F01#32

/-- 60_exceptions.md R202, R212: no step stops but for a host access that is not a whole aligned register of the window;
in particular no command and no engine step does. That an access outside the window is one of these is the
model's reading (log entry 6). -/
def Obligations.OnlyAnInexpressibleAccessStops : Prop :=
  (∀ (i : Instr) (s : State), ∃ t, exec i s = .next t) ∧
  ∀ s : State, (∃ t, step s = .next t) ∨
    (step s = .refused .accessNotExpressible ∧
      ∃ a rest, (s.todo = .access a :: rest ∨ s.todo = .resetCycle (some a) :: rest) ∧
        ¬((accessPlace a).2 = 4 ∧ (accessPlace a).1 % 4 = 0 ∧ (accessPlace a).1 < 0x400))

/-- 20_memory.md R58, R59, 30_encoding.md R81, 70_reset_and_hazards.md R230: a step runs the next event, whichever it is,
in the state with the event taken. The list of events, and that the bus drives nothing before the event runs, are the
model's choice (log entries 1, 2 and 3). -/
def Obligations.StepRunsTheNextEvent : Prop :=
  ∀ (s : State) (rest : List Event),
    takeEvent rest s = { s with rdata := none, todo := rest } ∧
    (∀ a, s.todo = .access a :: rest → step s = runAccess a (takeEvent rest s)) ∧
    (s.todo = .engineStep :: rest → step s = .next (engineStep (takeEvent rest s))) ∧
    (s.todo = .engineFinish :: rest → step s = .next (commit (takeEvent rest s))) ∧
    (∀ a, s.todo = .resetCycle a :: rest → step s = runResetCycle a (takeEvent rest s)) ∧
    (s.todo = [] → step s = .next (commit (takeEvent [] s)))

/-- 10_state.md R28 to R31: a step changes a register of BLOCK, NONCE or CTIN only at a host write of that register or
at reset, and one of KEY only at these and where a passing key-consuming command is accepted, which leaves all of KEY
zero; a host write of such a register answers a next state with the register written; reset leaves all of them zero. -/
def Obligations.InputRegistersAreWrittenByTheHostAlone : Prop :=
  (∀ s t : State, step s = .next t →
    (∀ j : Fin 4,
      (t.block[j] ≠ s.block[j] → NextWrites (0x020 + 4 * j.val) t.block[j] s ∨ NextResets s) ∧
      (t.nonce[j] ≠ s.nonce[j] → NextWrites (0x030 + 4 * j.val) t.nonce[j] s ∨ NextResets s) ∧
      (t.key[j] ≠ s.key[j] → NextWrites (0x010 + 4 * j.val) t.key[j] s ∨ NextResets s ∨
        (t.key = zeroKey ∧ s.status.busy = false ∧
          ∃ v, NextWrites 0x000 v s ∧ firstError v s.status.rksValid = none ∧ opOfWord v ≠ .encryptBlock))) ∧
    (∀ j : Fin 8, t.ctin[j] ≠ s.ctin[j] → NextWrites (0x040 + 4 * j.val) t.ctin[j] s ∨ NextResets s) ∧
    (NextResets s →
      t.key = zeroKey ∧ t.block = .replicate 4 0 ∧ t.nonce = .replicate 4 0 ∧ t.ctin = .replicate 8 0)) ∧
  ∀ (s : State) (v : Word),
    (∀ j : Fin 4,
      (NextWrites (0x010 + 4 * j.val) v s → ∃ t, step s = .next t ∧ t.key = s.key.set j v) ∧
      (NextWrites (0x020 + 4 * j.val) v s → ∃ t, step s = .next t ∧ t.block = s.block.set j v) ∧
      (NextWrites (0x030 + 4 * j.val) v s → ∃ t, step s = .next t ∧ t.nonce = s.nonce.set j v)) ∧
    ∀ j : Fin 8, NextWrites (0x040 + 4 * j.val) v s → ∃ t, step s = .next t ∧ t.ctin = s.ctin.set j v

/-- 10_state.md R36: the acceptance of a passing command sets PEND to its record, an engine step counts it down, the
commit and reset clear it, and no other step changes it. -/
def Obligations.PendingIsWrittenByAcceptanceTheEngineAndReset : Prop :=
  ∀ s t : State, step s = .next t →
    (∀ v, NextWrites 0x000 v s → s.status.busy = false → firstError v s.status.rksValid = none →
      t.pend = some { op := opOfWord v, word := v, snap := snapshot s, left := latency (opOfWord v) }) ∧
    (∀ p, NextCommits s p → t.pend = none) ∧
    (NextResets s → t.pend = none) ∧
    (∀ p rest, s.todo = .engineStep :: rest → s.pend = some p → 2 ≤ p.left →
      t.pend = some { p with left := p.left - 1 }) ∧
    (t.pend ≠ s.pend →
      (∃ v, NextWrites 0x000 v s ∧ s.status.busy = false ∧ firstError v s.status.rksValid = none) ∨
        (∃ p, NextCommits s p) ∨ NextResets s ∨ ∃ rest, s.todo = .engineStep :: rest)

/-- 10_state.md R28 to R31, R39: the snapshot reads the banks as byte strings, byte `4j+m` from byte `m` of register
`j`, CTIN as nonce and payload; and OUT is written in the same order. -/
def Obligations.OperandBanksAreByteStrings : Prop :=
  (∀ (s : State) (j m : Fin 4),
    byteAt (snapshot s).key ⟨4 * j.val + m.val, by omega⟩ = wordByte s.key[j] m ∧
    byteAt (snapshot s).block ⟨4 * j.val + m.val, by omega⟩ = wordByte s.block[j] m ∧
    byteAt (snapshot s).nonce ⟨4 * j.val + m.val, by omega⟩ = wordByte s.nonce[j] m ∧
    byteAt (firstHalf (snapshot s).ctin) ⟨4 * j.val + m.val, by omega⟩ = wordByte s.ctin[j.val] m ∧
    byteAt (secondHalf (snapshot s).ctin) ⟨4 * j.val + m.val, by omega⟩ = wordByte s.ctin[4 + j.val] m) ∧
  ∀ (v : Bytes32) (s : State) (j m : Fin 4),
    wordByte (writeOut v s).out[j.val] m = byteAt (firstHalf v) ⟨4 * j.val + m.val, by omega⟩ ∧
    wordByte (writeOut v s).out[4 + j.val] m = byteAt (secondHalf v) ⟨4 * j.val + m.val, by omega⟩
end

