-- ==== Sys2Proof/Laws/Bytes.lean ====
section
/-! SUPPORT. Bytes, entries, columns and halves of byte strings: reading back what was put together. -/

namespace Sys2Proof.Machine

/-- Byte `k` of the string put together from `f` is `f k` (R11, R53). -/
@[simp] theorem byteAt_ofBytes (f : Fin 16 → Byte) (k : Fin 16) : byteAt (ofBytes f) k = f k := by
  apply BitVec.eq_of_getLsbD_eq
  intro i hi
  fin_cases k <;>
    simp only [byteAt, ofBytes, BitVec.getLsbD_extractLsb', BitVec.getLsbD_append] <;> grind

/-- Two 16-byte strings with the same bytes are equal. -/
theorem bytes16_ext {a b : Bytes16} (h : ∀ k, byteAt a k = byteAt b k) : a = b := by
  apply BitVec.eq_of_getLsbD_eq
  intro i hi
  have hk := congrArg (fun v : Byte => v.getLsbD (i % 8)) (h ⟨15 - i / 8, by omega⟩)
  have e : 120 - 8 * (15 - i / 8) + i % 8 = i := by omega
  simpa [byteAt, BitVec.getLsbD_extractLsb', e, Nat.mod_lt] using hk

/-- A 16-byte string is put together from its bytes. -/
theorem ofBytes_byteAt (b : Bytes16) : ofBytes (byteAt b) = b := bytes16_ext fun k => byteAt_ofBytes _ k

/-- Entry `r, c` of the State put together from `f` is `f r c` (R12). -/
@[simp] theorem entry_ofEntries (f : Fin 4 → Fin 4 → Byte) (r c : Fin 4) : entry (ofEntries f) r c = f r c := by
  unfold entry ofEntries
  rw [byteAt_ofBytes]
  congr 1 <;> (apply Fin.ext; simp <;> omega)

/-- Two States with the same entries are equal. -/
theorem state_ext {a b : Bytes16} (h : ∀ r c, entry a r c = entry b r c) : a = b := by
  apply bytes16_ext
  intro k
  have hk := h ⟨k.val % 4, by omega⟩ ⟨k.val / 4, by omega⟩
  have e : k.val % 4 + 4 * (k.val / 4) = k.val := by omega
  simpa [entry, e] using hk

/-- Exclusive-or acts byte by byte (R11). -/
@[simp] theorem byteAt_xor (a b : Bytes16) (k : Fin 16) : byteAt (a ^^^ b) k = byteAt a k ^^^ byteAt b k := by
  simp [byteAt, BitVec.extractLsb'_xor]

/-- Exclusive-or acts entry by entry (R145). -/
@[simp] theorem entry_xor (a b : Bytes16) (r c : Fin 4) : entry (a ^^^ b) r c = entry a r c ^^^ entry b r c :=
  byteAt_xor a b _

/-- Byte `m` of the word `[a0,a1,a2,a3]` (R11). -/
@[simp] theorem wordByte_wordOf (a0 a1 a2 a3 : Byte) (m : Fin 4) :
    wordByte (wordOf a0 a1 a2 a3) m = #v[a0, a1, a2, a3][m] := by
  apply BitVec.eq_of_getLsbD_eq
  intro i hi
  fin_cases m <;>
    simp only [wordByte, wordOf, BitVec.getLsbD_extractLsb', BitVec.getLsbD_append] <;> simp <;> grind

/-- A word is put together from its four bytes (R11). -/
theorem wordOf_wordByte (w : Word) :
    wordOf (wordByte w 0) (wordByte w 1) (wordByte w 2) (wordByte w 3) = w := by
  apply BitVec.eq_of_getLsbD_eq
  intro i hi
  simp only [wordByte, wordOf, BitVec.getLsbD_extractLsb', BitVec.getLsbD_append]
  grind

/-- Column `c` of the State put together from columns (R140). -/
@[simp] theorem column_ofColumns (c0 c1 c2 c3 : Word) (c : Fin 4) :
    column (ofColumns c0 c1 c2 c3) c = #v[c0, c1, c2, c3][c] := by
  apply BitVec.eq_of_getLsbD_eq
  intro i hi
  fin_cases c <;>
    simp only [column, ofColumns, BitVec.getLsbD_extractLsb', BitVec.getLsbD_append] <;> simp <;> grind

/-- A State is put together from its columns (R140). -/
theorem ofColumns_column (s : Bytes16) :
    ofColumns (column s 0) (column s 1) (column s 2) (column s 3) = s := by
  apply BitVec.eq_of_getLsbD_eq
  intro i hi
  simp only [column, ofColumns, BitVec.getLsbD_extractLsb', BitVec.getLsbD_append]
  grind

/-- Entry `r, c` of a State is byte `r` of its column `c` (R140). -/
theorem entry_eq_wordByte_column (s : Bytes16) (r c : Fin 4) : entry s r c = wordByte (column s c) r := by
  apply BitVec.eq_of_getLsbD_eq
  intro i hi
  have e : 120 - 8 * (r.val + 4 * c.val) + i = 96 - 32 * c.val + (24 - 8 * r.val + i) := by omega
  have h : 24 - 8 * r.val + i < 32 := by omega
  simp [entry, byteAt, wordByte, column, BitVec.getLsbD_extractLsb', e, h]

@[simp] theorem firstHalf_append (a b : Bytes16) : firstHalf (a ++ b) = a := by
  apply BitVec.eq_of_getLsbD_eq
  intro i hi
  simp only [firstHalf, BitVec.getLsbD_extractLsb', BitVec.getLsbD_append]
  grind

@[simp] theorem secondHalf_append (a b : Bytes16) : secondHalf (a ++ b) = b := by
  apply BitVec.eq_of_getLsbD_eq
  intro i hi
  simp only [secondHalf, BitVec.getLsbD_extractLsb', BitVec.getLsbD_append]
  grind

/-- The bank read back from the words of a 32-byte string is the string (R39). -/
@[simp] theorem bank32_words32 (v : Bytes32) : bank32 (words32 v) = v := by
  apply BitVec.eq_of_getLsbD_eq
  intro i hi
  simp only [bank32, words32, wordAt, BitVec.getLsbD_append]
  simp [BitVec.getLsbD_extractLsb']
  grind

end Sys2Proof.Machine
end

