-- ==== Sys2Proof/Laws/State.lean ====
section
/-! SUPPORT. One lemma per field per update of STATUS and of the state, true by rfl, so that no later proof
unfolds a record update. -/

namespace Sys2Proof.Machine

@[simp] theorem statusAccept_busy (t : Status) : (statusAccept t).busy = t.busy := rfl
@[simp] theorem statusAccept_done (t : Status) : (statusAccept t).done = false := rfl
@[simp] theorem statusAccept_rksValid (t : Status) : (statusAccept t).rksValid = t.rksValid := rfl
@[simp] theorem statusAccept_ovr (t : Status) : (statusAccept t).ovr = t.ovr := rfl
@[simp] theorem statusAccept_errcode (t : Status) : (statusAccept t).errcode = 0 := rfl

@[simp] theorem statusFail_busy (e : ErrorCode) (t : Status) : (statusFail e t).busy = t.busy := rfl
@[simp] theorem statusFail_done (e : ErrorCode) (t : Status) : (statusFail e t).done = true := rfl
@[simp] theorem statusFail_rksValid (e : ErrorCode) (t : Status) : (statusFail e t).rksValid = t.rksValid := rfl
@[simp] theorem statusFail_ovr (e : ErrorCode) (t : Status) : (statusFail e t).ovr = t.ovr := rfl
@[simp] theorem statusFail_errcode (e : ErrorCode) (t : Status) : (statusFail e t).errcode = errorNumber e := rfl

@[simp] theorem statusStart_busy (t : Status) : (statusStart t).busy = true := rfl
@[simp] theorem statusStart_done (t : Status) : (statusStart t).done = t.done := rfl
@[simp] theorem statusStart_rksValid (t : Status) : (statusStart t).rksValid = t.rksValid := rfl
@[simp] theorem statusStart_ovr (t : Status) : (statusStart t).ovr = t.ovr := rfl
@[simp] theorem statusStart_errcode (t : Status) : (statusStart t).errcode = t.errcode := rfl

@[simp] theorem statusDrop_busy (t : Status) : (statusDrop t).busy = t.busy := rfl
@[simp] theorem statusDrop_done (t : Status) : (statusDrop t).done = t.done := rfl
@[simp] theorem statusDrop_rksValid (t : Status) : (statusDrop t).rksValid = t.rksValid := rfl
@[simp] theorem statusDrop_ovr (t : Status) : (statusDrop t).ovr = true := rfl
@[simp] theorem statusDrop_errcode (t : Status) : (statusDrop t).errcode = t.errcode := rfl

@[simp] theorem statusFinish_busy (t : Status) : (statusFinish t).busy = false := rfl
@[simp] theorem statusFinish_done (t : Status) : (statusFinish t).done = true := rfl
@[simp] theorem statusFinish_rksValid (t : Status) : (statusFinish t).rksValid = t.rksValid := rfl
@[simp] theorem statusFinish_ovr (t : Status) : (statusFinish t).ovr = t.ovr := rfl
@[simp] theorem statusFinish_errcode (t : Status) : (statusFinish t).errcode = t.errcode := rfl

/-- A host write of STATUS changes OVR alone (R22). -/
@[simp] theorem statusWrite_busy (v : Word) (t : Status) : (statusWrite v t).busy = t.busy := by
  unfold statusWrite; split <;> rfl
@[simp] theorem statusWrite_done (v : Word) (t : Status) : (statusWrite v t).done = t.done := by
  unfold statusWrite; split <;> rfl
@[simp] theorem statusWrite_rksValid (v : Word) (t : Status) : (statusWrite v t).rksValid = t.rksValid := by
  unfold statusWrite; split <;> rfl
@[simp] theorem statusWrite_errcode (v : Word) (t : Status) : (statusWrite v t).errcode = t.errcode := by
  unfold statusWrite; split <;> rfl
@[simp] theorem statusWrite_ovr (v : Word) (t : Status) :
    (statusWrite v t).ovr = (t.ovr && !v.getLsbD 4) := by
  unfold statusWrite; split <;> simp_all

@[simp] theorem acceptWord_cmd (v : Word) (s : State) : (acceptWord v s).cmd = v := rfl
@[simp] theorem acceptWord_status (v : Word) (s : State) : (acceptWord v s).status = statusAccept s.status := rfl
@[simp] theorem acceptWord_key (v : Word) (s : State) : (acceptWord v s).key = s.key := rfl
@[simp] theorem acceptWord_block (v : Word) (s : State) : (acceptWord v s).block = s.block := rfl
@[simp] theorem acceptWord_nonce (v : Word) (s : State) : (acceptWord v s).nonce = s.nonce := rfl
@[simp] theorem acceptWord_ctin (v : Word) (s : State) : (acceptWord v s).ctin = s.ctin := rfl
@[simp] theorem acceptWord_out (v : Word) (s : State) : (acceptWord v s).out = s.out := rfl
@[simp] theorem acceptWord_rks (v : Word) (s : State) : (acceptWord v s).rks = s.rks := rfl
@[simp] theorem acceptWord_pend (v : Word) (s : State) : (acceptWord v s).pend = s.pend := rfl
@[simp] theorem acceptWord_rdata (v : Word) (s : State) : (acceptWord v s).rdata = s.rdata := rfl
@[simp] theorem acceptWord_todo (v : Word) (s : State) : (acceptWord v s).todo = s.todo := rfl

@[simp] theorem raiseError_cmd (e : ErrorCode) (s : State) : (raiseError e s).cmd = s.cmd := rfl
@[simp] theorem raiseError_status (e : ErrorCode) (s : State) : (raiseError e s).status = statusFail e s.status := rfl
@[simp] theorem raiseError_key (e : ErrorCode) (s : State) : (raiseError e s).key = s.key := rfl
@[simp] theorem raiseError_block (e : ErrorCode) (s : State) : (raiseError e s).block = s.block := rfl
@[simp] theorem raiseError_nonce (e : ErrorCode) (s : State) : (raiseError e s).nonce = s.nonce := rfl
@[simp] theorem raiseError_ctin (e : ErrorCode) (s : State) : (raiseError e s).ctin = s.ctin := rfl
@[simp] theorem raiseError_out (e : ErrorCode) (s : State) : (raiseError e s).out = s.out := rfl
@[simp] theorem raiseError_rks (e : ErrorCode) (s : State) : (raiseError e s).rks = s.rks := rfl
@[simp] theorem raiseError_pend (e : ErrorCode) (s : State) : (raiseError e s).pend = s.pend := rfl
@[simp] theorem raiseError_rdata (e : ErrorCode) (s : State) : (raiseError e s).rdata = s.rdata := rfl
@[simp] theorem raiseError_todo (e : ErrorCode) (s : State) : (raiseError e s).todo = s.todo := rfl

@[simp] theorem dropCommand_cmd (s : State) : (dropCommand s).cmd = s.cmd := rfl
@[simp] theorem dropCommand_status (s : State) : (dropCommand s).status = statusDrop s.status := rfl
@[simp] theorem dropCommand_key (s : State) : (dropCommand s).key = s.key := rfl
@[simp] theorem dropCommand_block (s : State) : (dropCommand s).block = s.block := rfl
@[simp] theorem dropCommand_nonce (s : State) : (dropCommand s).nonce = s.nonce := rfl
@[simp] theorem dropCommand_ctin (s : State) : (dropCommand s).ctin = s.ctin := rfl
@[simp] theorem dropCommand_out (s : State) : (dropCommand s).out = s.out := rfl
@[simp] theorem dropCommand_rks (s : State) : (dropCommand s).rks = s.rks := rfl
@[simp] theorem dropCommand_pend (s : State) : (dropCommand s).pend = s.pend := rfl
@[simp] theorem dropCommand_rdata (s : State) : (dropCommand s).rdata = s.rdata := rfl
@[simp] theorem dropCommand_todo (s : State) : (dropCommand s).todo = s.todo := rfl

@[simp] theorem clearKey_cmd (s : State) : (clearKey s).cmd = s.cmd := rfl
@[simp] theorem clearKey_status (s : State) : (clearKey s).status = s.status := rfl
@[simp] theorem clearKey_key (s : State) : (clearKey s).key = .replicate 4 0 := rfl
@[simp] theorem clearKey_block (s : State) : (clearKey s).block = s.block := rfl
@[simp] theorem clearKey_nonce (s : State) : (clearKey s).nonce = s.nonce := rfl
@[simp] theorem clearKey_ctin (s : State) : (clearKey s).ctin = s.ctin := rfl
@[simp] theorem clearKey_out (s : State) : (clearKey s).out = s.out := rfl
@[simp] theorem clearKey_rks (s : State) : (clearKey s).rks = s.rks := rfl
@[simp] theorem clearKey_pend (s : State) : (clearKey s).pend = s.pend := rfl
@[simp] theorem clearKey_rdata (s : State) : (clearKey s).rdata = s.rdata := rfl
@[simp] theorem clearKey_todo (s : State) : (clearKey s).todo = s.todo := rfl

@[simp] theorem startCommand_cmd (op : Op) (w : Word) (n : Snapshot) (s : State) :
    (startCommand op w n s).cmd = s.cmd := rfl
@[simp] theorem startCommand_status (op : Op) (w : Word) (n : Snapshot) (s : State) :
    (startCommand op w n s).status = statusStart s.status := rfl
@[simp] theorem startCommand_key (op : Op) (w : Word) (n : Snapshot) (s : State) :
    (startCommand op w n s).key = s.key := rfl
@[simp] theorem startCommand_block (op : Op) (w : Word) (n : Snapshot) (s : State) :
    (startCommand op w n s).block = s.block := rfl
@[simp] theorem startCommand_nonce (op : Op) (w : Word) (n : Snapshot) (s : State) :
    (startCommand op w n s).nonce = s.nonce := rfl
@[simp] theorem startCommand_ctin (op : Op) (w : Word) (n : Snapshot) (s : State) :
    (startCommand op w n s).ctin = s.ctin := rfl
@[simp] theorem startCommand_out (op : Op) (w : Word) (n : Snapshot) (s : State) :
    (startCommand op w n s).out = s.out := rfl
@[simp] theorem startCommand_rks (op : Op) (w : Word) (n : Snapshot) (s : State) :
    (startCommand op w n s).rks = s.rks := rfl
@[simp] theorem startCommand_pend (op : Op) (w : Word) (n : Snapshot) (s : State) :
    (startCommand op w n s).pend = some { op := op, word := w, snap := n, left := latency op } := rfl
@[simp] theorem startCommand_rdata (op : Op) (w : Word) (n : Snapshot) (s : State) :
    (startCommand op w n s).rdata = s.rdata := rfl
@[simp] theorem startCommand_todo (op : Op) (w : Word) (n : Snapshot) (s : State) :
    (startCommand op w n s).todo = s.todo := rfl

@[simp] theorem finishCommand_cmd (s : State) : (finishCommand s).cmd = s.cmd := rfl
@[simp] theorem finishCommand_status (s : State) : (finishCommand s).status = statusFinish s.status := rfl
@[simp] theorem finishCommand_key (s : State) : (finishCommand s).key = s.key := rfl
@[simp] theorem finishCommand_block (s : State) : (finishCommand s).block = s.block := rfl
@[simp] theorem finishCommand_nonce (s : State) : (finishCommand s).nonce = s.nonce := rfl
@[simp] theorem finishCommand_ctin (s : State) : (finishCommand s).ctin = s.ctin := rfl
@[simp] theorem finishCommand_out (s : State) : (finishCommand s).out = s.out := rfl
@[simp] theorem finishCommand_rks (s : State) : (finishCommand s).rks = s.rks := rfl
@[simp] theorem finishCommand_pend (s : State) : (finishCommand s).pend = none := rfl
@[simp] theorem finishCommand_rdata (s : State) : (finishCommand s).rdata = s.rdata := rfl
@[simp] theorem finishCommand_todo (s : State) : (finishCommand s).todo = s.todo := rfl

@[simp] theorem writeOut_cmd (v : Bytes32) (s : State) : (writeOut v s).cmd = s.cmd := rfl
@[simp] theorem writeOut_status (v : Bytes32) (s : State) : (writeOut v s).status = s.status := rfl
@[simp] theorem writeOut_key (v : Bytes32) (s : State) : (writeOut v s).key = s.key := rfl
@[simp] theorem writeOut_block (v : Bytes32) (s : State) : (writeOut v s).block = s.block := rfl
@[simp] theorem writeOut_nonce (v : Bytes32) (s : State) : (writeOut v s).nonce = s.nonce := rfl
@[simp] theorem writeOut_ctin (v : Bytes32) (s : State) : (writeOut v s).ctin = s.ctin := rfl
@[simp] theorem writeOut_out (v : Bytes32) (s : State) : (writeOut v s).out = words32 v := rfl
@[simp] theorem writeOut_rks (v : Bytes32) (s : State) : (writeOut v s).rks = s.rks := rfl
@[simp] theorem writeOut_pend (v : Bytes32) (s : State) : (writeOut v s).pend = s.pend := rfl
@[simp] theorem writeOut_rdata (v : Bytes32) (s : State) : (writeOut v s).rdata = s.rdata := rfl
@[simp] theorem writeOut_todo (v : Bytes32) (s : State) : (writeOut v s).todo = s.todo := rfl

@[simp] theorem writeSchedule_cmd (w : Schedule) (s : State) : (writeSchedule w s).cmd = s.cmd := rfl
@[simp] theorem writeSchedule_status (w : Schedule) (s : State) :
    (writeSchedule w s).status = { s.status with rksValid := true } := rfl
@[simp] theorem writeSchedule_key (w : Schedule) (s : State) : (writeSchedule w s).key = s.key := rfl
@[simp] theorem writeSchedule_block (w : Schedule) (s : State) : (writeSchedule w s).block = s.block := rfl
@[simp] theorem writeSchedule_nonce (w : Schedule) (s : State) : (writeSchedule w s).nonce = s.nonce := rfl
@[simp] theorem writeSchedule_ctin (w : Schedule) (s : State) : (writeSchedule w s).ctin = s.ctin := rfl
@[simp] theorem writeSchedule_out (w : Schedule) (s : State) : (writeSchedule w s).out = s.out := rfl
@[simp] theorem writeSchedule_rks (w : Schedule) (s : State) : (writeSchedule w s).rks = w := rfl
@[simp] theorem writeSchedule_pend (w : Schedule) (s : State) : (writeSchedule w s).pend = s.pend := rfl
@[simp] theorem writeSchedule_rdata (w : Schedule) (s : State) : (writeSchedule w s).rdata = s.rdata := rfl
@[simp] theorem writeSchedule_todo (w : Schedule) (s : State) : (writeSchedule w s).todo = s.todo := rfl

@[simp] theorem takeEvent_cmd (l : List Event) (s : State) : (takeEvent l s).cmd = s.cmd := rfl
@[simp] theorem takeEvent_status (l : List Event) (s : State) : (takeEvent l s).status = s.status := rfl
@[simp] theorem takeEvent_key (l : List Event) (s : State) : (takeEvent l s).key = s.key := rfl
@[simp] theorem takeEvent_block (l : List Event) (s : State) : (takeEvent l s).block = s.block := rfl
@[simp] theorem takeEvent_nonce (l : List Event) (s : State) : (takeEvent l s).nonce = s.nonce := rfl
@[simp] theorem takeEvent_ctin (l : List Event) (s : State) : (takeEvent l s).ctin = s.ctin := rfl
@[simp] theorem takeEvent_out (l : List Event) (s : State) : (takeEvent l s).out = s.out := rfl
@[simp] theorem takeEvent_rks (l : List Event) (s : State) : (takeEvent l s).rks = s.rks := rfl
@[simp] theorem takeEvent_pend (l : List Event) (s : State) : (takeEvent l s).pend = s.pend := rfl
@[simp] theorem takeEvent_rdata (l : List Event) (s : State) : (takeEvent l s).rdata = none := rfl
@[simp] theorem takeEvent_todo (l : List Event) (s : State) : (takeEvent l s).todo = l := rfl

@[simp] theorem resetCore_cmd (s : State) : (resetCore s).cmd = State.reset.cmd := rfl
@[simp] theorem resetCore_status (s : State) : (resetCore s).status = State.reset.status := rfl
@[simp] theorem resetCore_key (s : State) : (resetCore s).key = State.reset.key := rfl
@[simp] theorem resetCore_block (s : State) : (resetCore s).block = State.reset.block := rfl
@[simp] theorem resetCore_nonce (s : State) : (resetCore s).nonce = State.reset.nonce := rfl
@[simp] theorem resetCore_ctin (s : State) : (resetCore s).ctin = State.reset.ctin := rfl
@[simp] theorem resetCore_out (s : State) : (resetCore s).out = State.reset.out := rfl
@[simp] theorem resetCore_rks (s : State) : (resetCore s).rks = State.reset.rks := rfl
@[simp] theorem resetCore_pend (s : State) : (resetCore s).pend = State.reset.pend := rfl
@[simp] theorem resetCore_rdata (s : State) : (resetCore s).rdata = s.rdata := rfl
@[simp] theorem resetCore_todo (s : State) : (resetCore s).todo = s.todo := rfl

end Sys2Proof.Machine
end

