-- ==== Sys2Proof/Laws/Command.lean ====
section
/-! SUPPORT. What each shared operation of command processing and of the window can do, said once. -/

namespace Sys2Proof.Machine

/-- A word written to CMD while busy is dropped (R26, R78). -/
theorem issue_busy (op : Op) (word : Word) (check : State → Option ErrorCode) (accept : State → State) (s : State)
    (h : s.status.busy = true) : issue op word check accept s = .next (dropCommand s) := by simp [issue, h]

/-- A command that fails a check ends with its error (R79). -/
theorem issue_error (op : Op) (word : Word) (check : State → Option ErrorCode) (accept : State → State) (s : State)
    (e : ErrorCode) (h : s.status.busy = false) (hc : check (acceptWord word s) = some e) :
    issue op word check accept s = .next (raiseError e (acceptWord word s)) := by simp [issue, h, hc]

/-- A command that passes its checks is started (R78). -/
theorem issue_start (op : Op) (word : Word) (check : State → Option ErrorCode) (accept : State → State) (s : State)
    (h : s.status.busy = false) (hc : check (acceptWord word s) = none) :
    issue op word check accept s = .next (startCommand op word (snapshot s) (accept (acceptWord word s))) := by
  simp [issue, h, hc]

/-- Everything `issue` can do: drop, fail or start (R78). -/
theorem issue_cases (op : Op) (word : Word) (check : State → Option ErrorCode) (accept : State → State) (s : State)
    (o : Host.Outcome State Fault Refusal) (h : issue op word check accept s = o) :
    (s.status.busy = true ∧ o = .next (dropCommand s)) ∨
      (s.status.busy = false ∧ ∃ e, check (acceptWord word s) = some e ∧
        o = .next (raiseError e (acceptWord word s))) ∨
      (s.status.busy = false ∧ check (acceptWord word s) = none ∧
        o = .next (startCommand op word (snapshot s) (accept (acceptWord word s)))) := by
  subst h
  cases hb : s.status.busy
  · cases hc : check (acceptWord word s)
    · exact .inr (.inr ⟨rfl, rfl, issue_start _ _ _ _ _ hb hc⟩)
    · exact .inr (.inl ⟨rfl, _, rfl, issue_error _ _ _ _ _ _ hb hc⟩)
  · exact .inl ⟨rfl, issue_busy _ _ _ _ _ hb⟩

/-- Everything an illegal word can do: be dropped, or fail with IllegalCommand (R75). -/
theorem issueIllegal_cases (word : Word) (s : State) (o : Host.Outcome State Fault Refusal)
    (h : issueIllegal word s = o) :
    (s.status.busy = true ∧ o = .next (dropCommand s)) ∨
      (s.status.busy = false ∧ o = .next (raiseError .illegalCommand (acceptWord word s))) := by
  subst h
  cases hb : s.status.busy <;> simp [issueIllegal, hb]

/-- The commit of the command in flight (R82). -/
theorem commit_some (s : State) (p : Pending) (h : s.pend = some p) :
    commit s = finishCommand (applyResult p s) := by simp [commit, h]

/-- Without a command in flight the engine holds (R81). -/
theorem commit_none (s : State) (h : s.pend = none) : commit s = s := by simp [commit, h]

/-- Without a command in flight the engine has no step (R81). -/
theorem engineStep_none (s : State) (h : s.pend = none) : engineStep s = s := by simp [engineStep, h]

/-- The last engine step commits (R81). -/
theorem engineStep_last (s : State) (p : Pending) (h : s.pend = some p) (hl : p.left = 1) :
    engineStep s = commit s := by simp [engineStep, h, hl]

/-- An engine step that is not the last counts down, and changes nothing else (R81). -/
theorem engineStep_more (s : State) (p : Pending) (h : s.pend = some p) (hl : p.left ≠ 1) :
    engineStep s = { s with pend := some { p with left := p.left - 1 } } := by simp [engineStep, h, hl]

/-- The offset of a register names that register (R55). -/
@[simp] theorem regAt_regOffset (r : Reg) : regAt (regOffset r) = some r := by
  cases r with
  | cmd => rfl
  | status => rfl
  | key j => revert j; decide
  | block j => revert j; decide
  | nonce j => revert j; decide
  | ctin j => revert j; decide
  | out j => revert j; decide
  | rkw i => revert i; decide

end Sys2Proof.Machine
end

