-- ==== Sys2Proof/Laws/PerInstr.lean ====
section
/-! SUPPORT. Statements about every command as a word, one lemma per constructor. -/

namespace Sys2Proof.Laws.ReservedBitsZero

/-- The reserved bits of the command's word are zero and its low four bits are an opcode of R74 (R70, R72). -/
def Statement (i : Instr) : Prop :=
  encode i &&& reservedMask = 0 ∧ opField (encode i) ∈ [0x1#4, 0x2#4, 0x3#4, 0x4#4]

/-- A packed word has its reserved bits zero. -/
theorem pack_reserved (op : BitVec 4) (klen blen xlen : Nat) : packWord op klen blen xlen &&& reservedMask = 0 := by
  apply BitVec.eq_of_getLsbD_eq
  intro i hi
  simp only [packWord, reservedMask, BitVec.getLsbD_and, BitVec.getLsbD_append]
  interval_cases i <;> simp

/-- A packed word holds its opcode in bits 3:0. -/
theorem pack_op (op : BitVec 4) (klen blen xlen : Nat) : opField (packWord op klen blen xlen) = op := by
  apply BitVec.eq_of_getLsbD_eq
  intro i hi
  simp only [opField, packWord, BitVec.getLsbD_extractLsb', BitVec.getLsbD_append]
  grind

theorem expandKey (klen blen xlen : Nat) : Statement (.expandKey klen blen xlen) :=
  ⟨pack_reserved _ _ _ _, by rw [encode, pack_op]; decide⟩

theorem encryptBlock (klen blen xlen : Nat) : Statement (.encryptBlock klen blen xlen) :=
  ⟨pack_reserved _ _ _ _, by rw [encode, pack_op]; decide⟩

theorem randEncrypt (klen blen xlen : Nat) : Statement (.randEncrypt klen blen xlen) :=
  ⟨pack_reserved _ _ _ _, by rw [encode, pack_op]; decide⟩

theorem randDecrypt (klen blen xlen : Nat) : Statement (.randDecrypt klen blen xlen) :=
  ⟨pack_reserved _ _ _ _, by rw [encode, pack_op]; decide⟩

end Sys2Proof.Laws.ReservedBitsZero
end

