-- ==== Sys2Proof/Laws/Step.lean ====
section
/-! SUPPORT. What issuing a command can do, and what a step can do: one lemma per kind of event, and all of them
in one case distinction. -/

namespace Sys2Proof.Machine

/-- The interface can express the access of one whole aligned register of the window, and no other (R51, R52). -/
theorem accessExpressible_iff (a : Access) :
    accessExpressible a = true ↔
      (accessPlace a).2 = 4 ∧ (accessPlace a).1 % 4 = 0 ∧ (accessPlace a).1 < windowBytes := by
  simp [accessExpressible, and_assoc]

/-- An access that cannot be expressed is refused (R52). -/
theorem runAccess_refused (a : Access) (s : State) (h : accessExpressible a = false) :
    runAccess a s = .refused .accessNotExpressible := by simp [runAccess, h]

/-- A write of a whole aligned register of the window is `memWrite` (R58). -/
theorem runAccess_write (off : Nat) (v : Word) (s : State) (h4 : off % 4 = 0) (h : off < windowBytes) :
    runAccess (.write off 4 v) s = memWrite off v s := by
  have he : accessExpressible (.write off 4 v) = true := (accessExpressible_iff _).2 ⟨rfl, h4, h⟩
  simp [runAccess, he]

/-- A read of a whole aligned register of the window drives its value (R57). -/
theorem runAccess_read (off : Nat) (s : State) (h4 : off % 4 = 0) (h : off < windowBytes) :
    runAccess (.read off 4) s = .next { s with rdata := some (memRead s off) } := by
  have he : accessExpressible (.read off 4) = true := (accessExpressible_iff _).2 ⟨rfl, h4, h⟩
  simp [runAccess, he]

/-- An access that answers a next state can be expressed (R52). -/
theorem runAccess_next (a : Access) (s t : State) (h : runAccess a s = .next t) : accessExpressible a = true := by
  cases he : accessExpressible a with
  | true => rfl
  | false => rw [runAccess_refused a s he] at h; exact absurd h (by simp)

/-- A host write that answers a next state is a whole aligned register, and is `memWrite` (R58). -/
theorem runAccess_write_next (off bytes : Nat) (v : Word) (s t : State)
    (h : runAccess (.write off bytes v) s = .next t) :
    bytes = 4 ∧ off % 4 = 0 ∧ off < windowBytes ∧ memWrite off v s = .next t := by
  obtain ⟨rfl, h4, hw⟩ := (accessExpressible_iff _).1 (runAccess_next _ _ _ h)
  exact ⟨rfl, h4, hw, (runAccess_write off v s h4 hw).symm.trans h⟩

/-- A host read that answers a next state changes what the bus drives, and nothing else (R57). -/
theorem runAccess_read_next (off bytes : Nat) (s t : State) (h : runAccess (.read off bytes) s = .next t) :
    bytes = 4 ∧ off % 4 = 0 ∧ off < windowBytes ∧ t = { s with rdata := some (memRead s off) } := by
  obtain ⟨rfl, h4, hw⟩ := (accessExpressible_iff _).1 (runAccess_next _ _ _ h)
  exact ⟨rfl, h4, hw, Host.Outcome.next.inj (h.symm.trans (runAccess_read off s h4 hw))⟩

/-- A reset cycle that answers a next state leaves the reset state (R230). -/
theorem runResetCycle_next (a : Option Access) (s t : State) (h : runResetCycle a s = .next t) :
    t = { resetCore s with rdata := resetRdata a } := by
  unfold runResetCycle at h
  split at h
  · exact (Host.Outcome.next.inj h).symm
  · exact absurd h (by simp)

/-- With nothing to come, a step is the engine's timeless step (R81). -/
theorem step_nil (s : State) (h : s.todo = []) : step s = .next (commit (takeEvent [] s)) := by
  simp [step, stepState, h]

/-- Otherwise a step runs the oldest event. -/
theorem step_cons (s : State) (e : Event) (rest : List Event) (h : s.todo = e :: rest) :
    step s = runEvent e (takeEvent rest s) := by
  simp [step, stepState, h]

/-- An offset that names CMD or STATUS is that register's offset (R55). -/
theorem regAt_cmd_status (off : Nat) :
    (regAt off = some .cmd → off = 0x000) ∧ (regAt off = some .status → off = 0x004) := by
  unfold regAt
  constructor <;> intro h <;> (repeat' split at h) <;> simp_all

/-- A state the command word of `i` leads to without error: KEY is cleared by every operation but ENCRYPT_BLOCK
(R28, R78). -/
def startedBy (i : Instr) (s : State) : State :=
  startCommand (opOf i) (encode i) (snapshot s)
    (if opOf i = .encryptBlock then acceptWord (encode i) s else clearKey (acceptWord (encode i) s))

/-- Everything issuing a command can do: be dropped, fail, or start with its lengths right and, for ENCRYPT_BLOCK,
under a schedule (R78). -/
theorem exec_cases (i : Instr) (s : State) :
    (s.status.busy = true ∧ exec i s = .next (dropCommand s)) ∨
      (s.status.busy = false ∧ ∃ e, exec i s = .next (raiseError e (acceptWord (encode i) s))) ∨
      (s.status.busy = false ∧ lengthsRight i = true ∧ (opOf i = .encryptBlock → s.status.rksValid = true) ∧
        exec i s = .next (startedBy i s)) := by
  cases hb : s.status.busy with
  | true => exact .inl ⟨rfl, by cases i <;> exact issue_busy _ _ _ _ _ hb⟩
  | false =>
    right
    cases i with
    | expandKey k b x =>
      by_cases hk : k = 16
      · simp [exec, execExpandKey, issue, hb, checkExpandKey, lengthsRight, hk, opOf, acceptExpandKey, startedBy]
      · simp [exec, execExpandKey, issue, hb, checkExpandKey, lengthsRight, hk, opOf]
        exact ⟨_, rfl⟩
    | encryptBlock k b x =>
      by_cases hl : b = 16 <;> by_cases hv : s.status.rksValid = true <;>
        simp [exec, execEncryptBlock, issue, hb, checkEncryptBlock, lengthsRight, hl, hv, opOf, acceptEncryptBlock,
          startedBy] <;>
        exact ⟨_, rfl⟩
    | randEncrypt k b x =>
      by_cases hk : k = 16 <;> by_cases hl : b = 16 <;> by_cases hx : x = 16 <;>
        simp [exec, execRandEncrypt, issue, hb, checkRandEncrypt, lengthsRight, hk, hl, hx, opOf, acceptRandEncrypt,
          startedBy] <;>
        exact ⟨_, rfl⟩
    | randDecrypt k b x =>
      by_cases hk : k = 16 <;> by_cases hx : x = 32 <;>
        simp [exec, execRandDecrypt, issue, hb, checkRandDecrypt, lengthsRight, hk, hx, opOf, acceptRandDecrypt,
          startedBy] <;>
        exact ⟨_, rfl⟩

/-- Reading is untouched by taking an event (R57). -/
@[simp] theorem memRead_takeEvent (rest : List Event) (s : State) (off : Nat) :
    memRead (takeEvent rest s) off = memRead s off := by
  unfold memRead
  cases regAt off with
  | none => rfl
  | some r => cases r <;> rfl

/-- A host write of any register but CMD and STATUS leaves everything but the four input banks (R58). -/
theorem memWrite_input (off : Nat) (v : Word) (s t : State) (h0 : off ≠ 0x000) (h4 : off ≠ 0x004)
    (h : memWrite off v s = .next t) :
    ∃ key block nonce ctin, t = { s with key := key, block := block, nonce := nonce, ctin := ctin } := by
  have hr := regAt_cmd_status off
  unfold memWrite at h
  cases hreg : regAt off with
  | none => simp only [hreg, Host.Outcome.next.injEq] at h; exact ⟨_, _, _, _, h.symm⟩
  | some r =>
    cases r <;> simp [hreg, writeReg, h0, h4] at h hr <;> exact ⟨_, _, _, _, h.symm⟩

/-- Everything a step that answers a next state can be. -/
inductive StepKind (s t : State) : Prop
  /-- A CMD write issues its word (R58). -/
  | cmd (v : Word) (rest : List Event) (event : s.todo = .access (.write 0x000 4 v) :: rest)
      (issued : issueCommand v (takeEvent rest s) = .next t)
  /-- A STATUS write can clear OVR (R22). -/
  | status (v : Word) (rest : List Event) (event : s.todo = .access (.write 0x004 4 v) :: rest)
      (result : t = { takeEvent rest s with status := statusWrite v s.status })
  /-- Any other write changes input banks alone (R58). -/
  | input (off : Nat) (v : Word) (rest : List Event) (event : s.todo = .access (.write off 4 v) :: rest)
      (notCmd : off ≠ 0x000) (notStatus : off ≠ 0x004)
      (result : ∃ key block nonce ctin,
        t = { takeEvent rest s with key := key, block := block, nonce := nonce, ctin := ctin })
  /-- A read drives the bus (R57). -/
  | read (off : Nat) (rest : List Event) (event : s.todo = .access (.read off 4) :: rest)
      (result : t = { takeEvent rest s with rdata := some (memRead s off) })
  /-- A reset cycle leaves the reset state (R230). -/
  | reset (a : Option Access) (rest : List Event) (event : s.todo = .resetCycle a :: rest)
      (result : t = { State.reset with rdata := resetRdata a, todo := rest })
  /-- The engine's timeless step commits, or holds (R81). -/
  | finish (rest : List Event) (event : s.todo = .engineFinish :: rest ∨ (s.todo = [] ∧ rest = []))
      (result : t = commit (takeEvent rest s))
  /-- An engine step (R81). -/
  | engine (rest : List Event) (event : s.todo = .engineStep :: rest) (result : t = engineStep (takeEvent rest s))

/-- What a step can do, said once. -/
theorem step_cases (s t : State) (h : step s = .next t) : StepKind s t := by
  cases he : s.todo with
  | nil =>
    rw [step_nil s he] at h
    injection h with h
    exact .finish [] (.inr ⟨he, rfl⟩) h.symm
  | cons e rest =>
    rw [step_cons s e rest he] at h
    cases e with
    | engineStep => simp only [runEvent, Host.Outcome.next.injEq] at h; exact .engine rest he h.symm
    | engineFinish => simp only [runEvent, Host.Outcome.next.injEq] at h; exact .finish rest (.inl he) h.symm
    | resetCycle a => exact .reset a rest he (runResetCycle_next _ _ _ h)
    | access a =>
      cases a with
      | read off b =>
        obtain ⟨rfl, -, -, rfl⟩ := runAccess_read_next _ _ _ _ h
        exact .read off rest he (by rw [memRead_takeEvent])
      | write off b v =>
        obtain ⟨rfl, -, -, hm⟩ := runAccess_write_next _ _ _ _ _ h
        by_cases h0 : off = 0x000
        · subst h0
          exact .cmd v rest he (by simpa [memWrite, regAt, writeReg] using hm)
        · by_cases h4 : off = 0x004
          · subst h4
            exact .status v rest he (by simpa [memWrite, regAt, writeReg, eq_comm] using hm)
          · exact .input off v rest he h0 h4 (memWrite_input _ _ _ _ h0 h4 hm)

/-- A run goes on from a step's next state. -/
theorem run_next (k : Nat) (s t : State) (h : step s = .next t) :
    Host.Core.run core (k + 1) s = Host.Core.run core k t := by
  have general : ∀ (M : Host.Core) (s t : M.State), M.step s = .next t → M.run (k + 1) s = M.run k t := by
    intro M s t h
    simp [Host.Core.run, h]
  exact general core s t h

end Sys2Proof.Machine
end

