-- ==== Sys2Proof/Tests/Slice0.lean ====
section
/-! SUPPORT. Small tests whose expected values stand in the spec, and a witness for the hypotheses of every
statement of Certificates/Slice0/Obligations.lean that has some. -/

open Sys2Proof Sys2Proof.Machine Sys2Proof.Claims

namespace Sys2Proof.Tests

/-! ## Helpers -/

/-- STATUS as the host reads it after one step, if the step answers a next state. -/
def statusAfter (s : State) : Option Word :=
  match step s with
  | .next t => some (memRead t 0x004)
  | _ => none

/-- What the bus drives after one step. -/
def rdataAfter (s : State) : Option Word :=
  match step s with
  | .next t => t.rdata
  | _ => none

/-- A core with the given RKS_VALID and a CMD write to come. -/
def issuing (rksValid : Bool) (v : Word) : State :=
  { State.reset with
    status := { Status.reset with rksValid := rksValid }, todo := [.access (.write 0x000 4 v)] }

/-- The operands of the programs of 95_test_vectors.md. -/
def specSnap : Snapshot :=
  { key := 0x000102030405060708090a0b0c0d0e0f#128, block := 0x00112233445566778899aabbccddeeff#128,
    nonce := 0xf0f1f2f3f4f5f6f7f8f9fafbfcfdfeff#128,
    ctin := 0xf0f1f2f3f4f5f6f7f8f9fafbfcfdfeff66b6e5db7007573f1fc874bcffcb4352#256 }

/-- The canonical word of an operation (30_encoding.md R74). -/
def canonical : Op → Word
  | .expandKey => 0x00001001#32
  | .encryptBlock => 0x00100002#32
  | .randEncrypt => 0x10101003#32
  | .randDecrypt => 0x20001004#32

/-- A record of a command on the operands of the spec, with `left` steps to run. -/
def record (op : Op) (left : Nat) : Pending := { op := op, word := canonical op, snap := specSnap, left := left }

/-- A core that runs a command, under a schedule. -/
def running (op : Op) (left : Nat) (todo : List Event) : State :=
  { State.reset with
    cmd := canonical op,
    status := { busy := true, done := false, rksValid := true, ovr := false, errcode := 0 },
    rks := keyExpansion specSnap.key, pend := some (record op left), todo := todo }

/-- A core that has completed a command under a schedule. -/
def ready (todo : List Event) : State :=
  { State.reset with
    status := { busy := false, done := true, rksValid := true, ovr := false, errcode := 0 },
    rks := keyExpansion specSnap.key, todo := todo }

/-! ## Well-formed commands (30_encoding.md R70) -/

theorem test_wellFormed_accepts :
    Instr.wellFormed (.expandKey 63 63 63) = true ∧ Instr.wellFormed (.encryptBlock 0 16 0) = true ∧
      Instr.wellFormed (.randEncrypt 16 16 16) = true ∧ Instr.wellFormed (.randDecrypt 0 0 32) = true := by decide

/-- One ill-formed term for each check: KLEN, BLEN and XLEN of 64 have no command word. -/
theorem test_wellFormed_refuses :
    Instr.wellFormed (.expandKey 64 0 0) = false ∧ Instr.wellFormed (.encryptBlock 0 64 0) = false ∧
      Instr.wellFormed (.randEncrypt 16 16 64) = false ∧ Instr.wellFormed (.randDecrypt 64 0 0) = false := by decide

/-! ## Words written out from 30_encoding.md R70 and R74, field by field from bit 31 down -/

theorem test_decode_expandKey :
    decode (0b00#2 ++ 0b000011#6 ++ 0b00#2 ++ 0b000010#6 ++ 0b00#2 ++ 0b010000#6 ++ 0b0000#4 ++ 0x1#4) =
      .ok (.expandKey 16 2 3) := by rfl

theorem test_decode_encryptBlock :
    decode (0b00#2 ++ 0b000011#6 ++ 0b00#2 ++ 0b010000#6 ++ 0b00#2 ++ 0b000001#6 ++ 0b0000#4 ++ 0x2#4) =
      .ok (.encryptBlock 1 16 3) := by rfl

theorem test_decode_randEncrypt :
    decode (0b00#2 ++ 0b010000#6 ++ 0b00#2 ++ 0b010001#6 ++ 0b00#2 ++ 0b001111#6 ++ 0b0000#4 ++ 0x3#4) =
      .ok (.randEncrypt 15 17 16) := by rfl

theorem test_decode_randDecrypt :
    decode (0b00#2 ++ 0b100000#6 ++ 0b00#2 ++ 0b111111#6 ++ 0b00#2 ++ 0b010000#6 ++ 0b0000#4 ++ 0x4#4) =
      .ok (.randDecrypt 16 63 32) := by rfl

/-- One illegal word for each reserved field (R72), and both ends of the reserved opcodes (R75). -/
theorem test_decode_refuses :
    decode 0x00001081#32 = .error .reservedBits ∧ decode 0x00005001#32 = .error .reservedBits ∧
      decode 0x00801001#32 = .error .reservedBits ∧ decode 0x80001001#32 = .error .reservedBits ∧
      decode 0x00000000#32 = .error .reservedOp ∧ decode 0x00000005#32 = .error .reservedOp ∧
      decode 0x0000000F#32 = .error .reservedOp := ⟨rfl, rfl, rfl, rfl, rfl, rfl, rfl⟩

theorem test_decodeTableWord :
    decodeTableWord 32 0x00100002 = some (.encryptBlock 0 16 0) ∧ decodeTableWord 8 0x81 = none := ⟨rfl, rfl⟩

/-! ## Commands: vector CMD-1, and the results of programs P1 and P2 -/

theorem test_expandKey_issue :
    statusAfter (issuing false 0x00001001#32) = some 0x00000001#32 ∧
      statusAfter (issuing false 0x00000F01#32) = some 0x00000102#32 ∧
      statusAfter (issuing true 0x00001101#32) = some 0x00000106#32 := ⟨rfl, rfl, rfl⟩

/-- Program P1, rows 7 and 8. -/
theorem test_expandKey_commit :
    memRead (commit { running .expandKey 1 [] with rks := .replicate 44 0 }) 0x110 = 0xD6AA74FD#32 ∧
      memRead (commit { running .expandKey 1 [] with rks := .replicate 44 0 }) 0x1AC = 0x4D2B30C5#32 := by
  decide +kernel

theorem test_encryptBlock_issue :
    statusAfter (issuing false 0x00100002#32) = some 0x00000402#32 ∧
      statusAfter (issuing true 0x00100002#32) = some 0x00000005#32 ∧
      statusAfter (issuing false 0x000F0002#32) = some 0x00000202#32 := ⟨rfl, rfl, rfl⟩

/-- Program P1, row 12. -/
theorem test_encryptBlock_commit :
    (commit (running .encryptBlock 1 [])).out =
      #v[0x69C4E0D8#32, 0x6A7B0430#32, 0xD8CDB780#32, 0x70B4C55A#32, 0, 0, 0, 0] := by decide +kernel

theorem test_randEncrypt_issue :
    statusAfter (issuing false 0x10101003#32) = some 0x00000001#32 ∧
      statusAfter (issuing false 0x0F101003#32) = some 0x00000202#32 ∧
      statusAfter (issuing false 0x10111003#32) = some 0x00000202#32 ∧
      statusAfter (issuing false 0x0F0F0F03#32) = some 0x00000102#32 := ⟨rfl, rfl, rfl, rfl⟩

/-- Program P2, row 6. -/
theorem test_randEncrypt_commit :
    (commit (running .randEncrypt 1 [])).out =
      #v[0xF0F1F2F3#32, 0xF4F5F6F7#32, 0xF8F9FAFB#32, 0xFCFDFEFF#32, 0x66B6E5DB#32, 0x7007573F#32, 0x1FC874BC#32,
        0xFFCB4352#32] := by decide +kernel

theorem test_randDecrypt_issue :
    statusAfter (issuing false 0x203F1004#32) = some 0x00000001#32 ∧
      statusAfter (issuing false 0x21001004#32) = some 0x00000302#32 ∧
      statusAfter (issuing false 0x20000F04#32) = some 0x00000102#32 ∧
      statusAfter (issuing false 0x1F000F04#32) = some 0x00000302#32 := ⟨rfl, rfl, rfl, rfl⟩

/-- Program P2, row 11. -/
theorem test_randDecrypt_commit :
    (commit (running .randDecrypt 1 [])).out =
      #v[0x00112233#32, 0x44556677#32, 0x8899AABB#32, 0xCCDDEEFF#32, 0, 0, 0, 0] := by decide +kernel

/-- Vector CMD-1, rows 6 to 8: illegal words. -/
theorem test_illegal_issue :
    statusAfter (issuing false 0x00001081#32) = some 0x00000502#32 ∧
      statusAfter (issuing true 0x40001001#32) = some 0x00000506#32 ∧
      statusAfter (issuing false 0x00000000#32) = some 0x00000502#32 := ⟨rfl, rfl, rfl⟩

/-- Vector CMD-1, row 24: a word written while busy. -/
theorem test_dropped :
    statusAfter (running .expandKey 1 [.access (.write 0x000 4 0x00100002#32)]) = some 0x00000015#32 := rfl

/-! ## The functions: vectors GF-1, GF-2, SB-1, KS-1, SR-1, MC-1, ARK-1, and the steps of KS-2 -/

theorem test_gf :
    double 0x80#8 = 0x1B#8 ∧ double 0xAE#8 = 0x47#8 ∧ double 0xFF#8 = 0xE5#8 ∧
      timesThree 0x80#8 = 0x9B#8 ∧ timesThree 0x57#8 = 0xF9#8 ∧ timesThree 0xFF#8 = 0x1A#8 := by decide

theorem test_sbox :
    substitute 0x00#8 = 0x63#8 ∧ substitute 0x0F#8 = 0x76#8 ∧ substitute 0x10#8 = 0xCA#8 ∧
      substitute 0x53#8 = 0xED#8 ∧ substitute 0x9A#8 = 0xB8#8 ∧ substitute 0xFE#8 = 0xBB#8 := by decide

theorem test_words :
    rotWord 0x0c0d0e0f#32 = 0x0d0e0f0c#32 ∧ subWord 0x0d0e0f0c#32 = 0xd7ab76fe#32 ∧ rcon 1 = 0x01000000#32 ∧
      rcon 9 = 0x1b000000#32 ∧ rcon 10 = 0x36000000#32 := by decide

theorem test_scheduleTemp : scheduleTemp 36 0xaebf7ad2#32 = 0x13dab5e4#32 := by decide

theorem test_shiftRows :
    shiftRows 0x000102030405060708090a0b0c0d0e0f#128 = 0x00050a0f04090e03080d02070c01060b#128 := by decide

theorem test_mixColumn :
    mixColumn 0xdb135345#32 = 0x8e4da1bc#32 ∧ mixColumn 0x80000000#32 = 0x1b80809b#32 ∧
      mixColumn 0x00000001#32 = 0x01010302#32 := by decide

/-! ## The window: vector REG-1 -/

theorem test_key_reads_zero :
    rdataAfter { ready [rdEvent (.key 0)] with key := #v[0x00010203#32, 0, 0, 0] } = some 0 := rfl

theorem test_block_reads_back :
    (match memWrite 0x028 0x8899AABB#32 .reset with | .next t => some (memRead t 0x028) | _ => none) =
      some 0x8899AABB#32 := rfl

theorem test_ovr_is_cleared_by_bit_four :
    statusAfter { ready [wrEvent .status 0x00000010#32] with
      status := { busy := false, done := true, rksValid := true, ovr := true, errcode := 0 } } =
        some 0x00000006#32 := rfl

/-! ## Host programs: 30_encoding.md R83, R84 and the disassembly of vector CMD-1 -/

theorem test_disassemble :
    disassemble 0x3F3F1001#32 = "EXPAND_KEY klen=16" ∧ disassemble 0x00000F01#32 = "EXPAND_KEY klen=15" ∧
      disassemble 0x00001081#32 = ".illegal 0x00001081" := by decide +kernel

theorem test_wr128 :
    expand (.wr128 .key 0x000102030405060708090a0b0c0d0e0f#128) =
      [.access (.write 0x010 4 0x00010203#32), .access (.write 0x014 4 0x04050607#32),
        .access (.write 0x018 4 0x08090A0B#32), .access (.write 0x01C 4 0x0C0D0E0F#32)] := by decide

/-! ## Witnesses of the hypotheses -/

theorem one_le_latency (op : Op) : 1 ≤ latency op := by
  cases op <;> simp [latency, Config.latExpand, Config.latEncrypt, Config.latRandEnc, Config.latRandDec]

/-- A core that runs a command with one step left has the invariant. -/
theorem running_invariant (op : Op) (todo : List Event) : CoreInvariant (running op 1 todo) where
  pendBusy := rfl
  busyNotDone := fun _ => rfl
  errDone := fun h => absurd rfl h
  errRange := Nat.zero_le 5
  pending := by
    intro p hp
    obtain rfl : record op 1 = p := Option.some.inj hp
    exact
      { word := rfl
        passed := by cases op <;> exact ⟨_, rfl, rfl, rfl⟩
        pos := Nat.le_refl 1
        bounded := one_le_latency op
        schedule := fun _ => rfl }
  validSchedule := fun _ => ⟨_, rfl⟩
  emptySchedule := fun h => absurd h (by simp [running])

/-- KeyScheduleFollowsTheRecurrence: both ends of the index range, one in each branch.
IterativeEngineComputesCipherAndSchedule: the first step counts that reach the results. -/
theorem witness_schedule_index :
    (4 ≤ 4 ∧ 4 < 44 ∧ 4 % 4 = 0) ∧ (4 ≤ 43 ∧ 43 < 44 ∧ 43 % 4 ≠ 0) ∧ 10 ≤ 10 ∧ 40 ≤ 40 := by decide

/-- DecodeInvertsEncode and ExecIsTheIssueOfItsWord: well-formed commands at both ends of the lengths. -/
theorem witness_wellFormed :
    Instr.wellFormed (.expandKey 0 0 0) = true ∧ Instr.wellFormed (.randDecrypt 63 63 63) = true ∧
      decode 0x3F3F3F04#32 = .ok (.randDecrypt 63 63 63) := ⟨rfl, rfl, rfl⟩

/-- IllegalWordsFailWithIllegalCommand. -/
theorem witness_illegal :
    (∃ e, decode 0x40001001#32 = .error e) ∧ (∃ e, decode 0x00000005#32 = .error e) ∧
      State.reset.status.busy = false := ⟨⟨_, rfl⟩, ⟨_, rfl⟩, rfl⟩

/-- UnreadLengthsHaveNoEffect: each of the three pairs, started or failed. -/
theorem witness_unread_lengths :
    (∃ t, exec (.expandKey 16 0 0) .reset = .next t ∧ t.status.busy = true) ∧
      (∃ t, exec (.encryptBlock 0 16 0) .reset = .next t ∧ t.status.busy = false) ∧
      (∃ t, exec (.encryptBlock 0 16 0) (ready []) = .next t ∧ t.status.busy = true) ∧
      (∃ t, exec (.randDecrypt 16 0 32) .reset = .next t ∧ t.status.busy = true) ∧
      State.reset.status.busy = false := ⟨⟨_, rfl, rfl⟩, ⟨_, rfl, rfl⟩, ⟨_, rfl, rfl⟩, ⟨_, rfl, rfl⟩, rfl⟩

/-- ExpandKeyExpandsTheKey, RandEncryptEncryptsTheBlock, RandDecryptDecryptsTheCiphertext, EncryptBlockEncryptsTheBlock. -/
theorem witness_idle :
    State.reset.status.busy = false ∧ (ready []).status.busy = false ∧ (ready []).status.rksValid = true :=
  ⟨rfl, rfl, rfl⟩

/-- CommandIssueFrame: a word dropped, a word failing, a word started with KEY cleared and one with KEY kept. -/
theorem witness_issue_frame :
    (∃ t, exec (.expandKey 16 0 0) (running .expandKey 1 []) = .next t ∧ t.status.ovr = true) ∧
      (∃ t, exec (.expandKey 15 0 0) .reset = .next t ∧ t.status.errcode = 1) ∧
      (∃ t, exec (.randEncrypt 16 16 16) .reset = .next t ∧ t.key = zeroKey) ∧
      ∃ t, exec (.encryptBlock 0 16 0) (ready []) = .next t ∧ t.key = (ready []).key :=
  ⟨⟨_, rfl, rfl⟩, ⟨_, rfl, rfl⟩, ⟨_, rfl, rfl⟩, ⟨_, rfl, rfl⟩⟩

/-- StepRunsTheDecodedCommand, its three clauses. -/
theorem witness_step_decodes :
    ((issuing false 0x00001001#32).todo = .access (.write 0x000 4 0x00001001#32) :: [] ∧
        decode 0x00001001#32 = .ok (.expandKey 16 0 0)) ∧
      ((issuing false 0#32).todo = .access (.write 0x000 4 0#32) :: [] ∧ decode 0#32 = .error .reservedOp) ∧
      0x3F3F1001 < 2 ^ 32 ∧ decodeTableWord 32 0x3F3F1001 = some (.expandKey 16 63 63) :=
  ⟨⟨rfl, rfl⟩, ⟨rfl, rfl⟩, by decide, rfl⟩

/-- IdleCoreHolds. -/
theorem witness_idle_core : State.reset.pend = none ∧ State.reset.todo = [] := ⟨rfl, rfl⟩

/-- EngineStepsCountDownToTheCommit: no command, the last step, a step before it. -/
theorem witness_engine :
    State.reset.pend = none ∧ (running .expandKey 1 []).pend = some (record .expandKey 1) ∧
      (running .randDecrypt 2 []).pend = some (record .randDecrypt 2) := ⟨rfl, rfl, rfl⟩

/-- CommitWritesTheResults: each operation. -/
theorem witness_commit (op : Op) : (running op 1 []).pend = some (record op 1) := rfl

/-- BusyIsWrittenByAcceptanceCommitAndReset, DoneIsWrittenByAcceptanceCompletionAndReset,
ErrcodeIsTheCodeOfTheLastCommand, CmdReadsBackTheLastAcceptedWord: a CMD write that starts, one that fails. -/
theorem witness_step_accepts :
    (∃ t, step (issuing false 0x00001001#32) = .next t ∧ t.status.busy = true ∧ t.cmd = 0x00001001#32) ∧
      NextWrites 0x000 0x00001001#32 (issuing false 0x00001001#32) ∧
      (∃ t, step (issuing false 0x00100002#32) = .next t ∧ t.status.errcode = 4) ∧
      NextWrites 0x000 0x00100002#32 (issuing false 0x00100002#32) :=
  ⟨⟨_, rfl, rfl, rfl⟩, ⟨_, rfl⟩, ⟨_, rfl, rfl⟩, ⟨_, rfl⟩⟩

/-- The same statements and OutHoldsTheLastResult: the three events that commit, for each operation. -/
theorem witness_step_commits (op : Op) :
    NextCommits (running op 1 [.engineStep]) (record op 1) ∧ NextCommits (running op 1 []) (record op 1) ∧
      NextCommits (running op 2 [.engineFinish]) (record op 2) ∧
      (∃ t, step (running op 1 [.engineStep]) = .next t ∧ t.status.busy = false) ∧
      (∃ t, step (running op 2 [.engineFinish]) = .next t ∧ t.status.done = true) :=
  ⟨⟨rfl, .inr (.inr ⟨rfl, _, rfl⟩)⟩, ⟨rfl, .inl rfl⟩, ⟨rfl, .inr (.inl ⟨_, rfl⟩)⟩,
    ⟨_, rfl, by cases op <;> rfl⟩, ⟨_, rfl, by cases op <;> rfl⟩⟩

/-- The same statements: a reset cycle. -/
theorem witness_step_resets :
    NextResets (running .randEncrypt 2 [.resetCycle none]) ∧
      ∃ t, step (running .randEncrypt 2 [.resetCycle none]) = .next t ∧ t.status = Status.reset :=
  ⟨⟨_, _, rfl⟩, ⟨_, rfl, rfl⟩⟩

/-- ErrcodeIsTheCodeOfTheLastCommand, StepKeepsInv: a state with the invariant that steps, busy and idle. -/
theorem witness_invariant_step :
    (CoreInvariant (running .expandKey 1 [.engineStep]) ∧ NextCommits (running .expandKey 1 [.engineStep]) (record .expandKey 1) ∧
        ∃ t, step (running .expandKey 1 [.engineStep]) = .next t) ∧
      CoreInvariant (running .encryptBlock 1 [wrEvent .cmd 0x00001001#32]) ∧
      ∃ t, step (running .encryptBlock 1 [wrEvent .cmd 0x00001001#32]) = .next t ∧ t.status.ovr = true :=
  ⟨⟨running_invariant _ _, ⟨rfl, .inr (.inr ⟨rfl, _, rfl⟩)⟩, ⟨_, rfl⟩⟩, running_invariant _ _, ⟨_, rfl, rfl⟩⟩

/-- OverrunIsStickyAndHarmless: OVR set by a drop, cleared by STATUS bit 4 and by reset, kept otherwise. -/
theorem witness_overrun :
    (running .expandKey 1 []).status.busy = true ∧
      (∃ t, step (running .expandKey 1 [wrEvent .cmd 0x00100002#32]) = .next t ∧ t.status.ovr = true) ∧
      (∃ t, step (withOvr true (ready [wrEvent .status 0x00000010#32])) = .next t ∧ t.status.ovr = false) ∧
      (∃ t, step (withOvr true (ready [wrEvent .status 0x0000000F#32])) = .next t ∧ t.status.ovr = true) ∧
      (∃ t, step (withOvr true (ready [.resetCycle none])) = .next t ∧ t.status.ovr = false) ∧
      ∃ t, issueCommand 0x00100002#32 (ready []) = .next t :=
  ⟨rfl, ⟨_, rfl, rfl⟩, ⟨_, rfl, rfl⟩, ⟨_, rfl, rfl⟩, ⟨_, rfl, rfl⟩, ⟨_, rfl⟩⟩

/-- RksValidTellsThatAScheduleWasExpanded: RKS_VALID set by a commit and cleared by reset; both values of it under
the invariant and at an ENCRYPT_BLOCK. -/
theorem witness_rksValid :
    (∃ t, step { running .expandKey 1 [.engineStep] with status := { Status.reset with busy := true } } = .next t ∧
        t.status.rksValid = true) ∧
      (∃ t, step (ready [.resetCycle none]) = .next t ∧ t.status.rksValid = false) ∧
      (CoreInvariant (running .expandKey 1 []) ∧ (running .expandKey 1 []).status.rksValid = true) ∧
      (State.reset.status.rksValid = false ∧ State.reset.status.busy = false) ∧
      (ready []).status.rksValid = true ∧ (ready []).status.busy = false :=
  ⟨⟨_, rfl, rfl⟩, ⟨_, rfl, rfl⟩, ⟨running_invariant _ _, rfl⟩, ⟨rfl, rfl⟩, rfl, rfl⟩

/-- RksValidTellsThatAScheduleWasExpanded, the clauses on an empty store: the invariant with RKS_VALID = 0, before a
step and after it. -/
theorem witness_empty_schedule :
    CoreInvariant State.reset ∧ State.reset.status.rksValid = false ∧
      ∃ t, step State.reset = .next t ∧ t.status.rksValid = false :=
  ⟨⟨rfl, fun h => absurd h (by decide), fun h => absurd rfl h, Nat.zero_le 5, fun _ h => absurd h (by simp [State.reset]),
    fun h => absurd h (by decide), fun _ => rfl⟩, rfl, _, rfl, rfl⟩

/-- CmdReadsBackTheLastAcceptedWord: CMD changed by a write and by reset. -/
theorem witness_cmd_changes :
    (∃ t, step (issuing false 0x00001001#32) = .next t ∧ t.cmd ≠ (issuing false 0x00001001#32).cmd) ∧
      ∃ t, step (running .expandKey 1 [.resetCycle none]) = .next t ∧ t.cmd ≠ (running .expandKey 1 []).cmd :=
  ⟨⟨_, rfl, by decide⟩, ⟨_, rfl, by decide⟩⟩

/-- KeyIsWriteOnlyAndClearedWhenTaken: a passing command of each operation. -/
theorem witness_key_taken :
    (ready []).status.busy = false ∧ (∃ t, exec (.expandKey 16 0 0) (ready []) = .next t ∧ t.status.busy = true) ∧
      (∃ t, exec (.randEncrypt 16 16 16) (ready []) = .next t ∧ t.status.busy = true) ∧
      (∃ t, exec (.randDecrypt 16 0 32) (ready []) = .next t ∧ t.status.busy = true) ∧
      ∃ t, exec (.encryptBlock 0 16 0) (ready []) = .next t ∧ t.status.busy = true :=
  ⟨rfl, ⟨_, rfl, rfl⟩, ⟨_, rfl, rfl⟩, ⟨_, rfl, rfl⟩, ⟨_, rfl, rfl⟩⟩

/-- OutHoldsTheLastResult: OUT changed by a commit and by reset. -/
theorem witness_out_changes :
    (∃ t, step (running .randEncrypt 1 [.engineStep]) = .next t ∧ t.out[0] ≠ (running .randEncrypt 1 []).out[0]) ∧
      ∃ t, step { ready [.resetCycle none] with out := #v[1, 0, 0, 0, 0, 0, 0, 0] } = .next t ∧ t.out[0] ≠ 1 :=
  ⟨⟨_, rfl, by decide +kernel⟩, ⟨_, rfl, by decide⟩⟩

/-- ScheduleChangesOnlyAtAnExpandCommit: RKS changed by a commit and by reset. -/
theorem witness_schedule_changes :
    (∃ t, step { running .expandKey 1 [.engineStep] with rks := .replicate 44 0 } = .next t ∧ t.rks[0] ≠ 0) ∧
      ∃ t, step (ready [.resetCycle none]) = .next t ∧ t.rks[0] ≠ (ready []).rks[0] :=
  ⟨⟨_, rfl, by decide +kernel⟩, ⟨_, rfl, by decide +kernel⟩⟩

/-- HostReadsFollowTheTable, HostWritesFollowTheTable: both ends of the window, and an offset no register has. -/
theorem witness_offsets :
    (0x000 % 4 = 0 ∧ 0x000 < 0x400) ∧ (0x3FC % 4 = 0 ∧ 0x3FC < 0x400) ∧ (∀ r, regOffset r ≠ 0x0FC) ∧
      (∀ r, regOffset r ≠ 0x1B0) ∧ ∃ t, memWrite 0x3FC 1#32 .reset = .next t ∧ memWrite 0x010 1#32 .reset ≠ .next t := by
  refine ⟨by decide, by decide, ?_, ?_, ⟨_, rfl, by simp [memWrite, regAt, writeReg, State.reset]; decide⟩⟩ <;> intro r <;>
    cases r <;> simp [regOffset] <;> omega

/-- ReservedOffsetsReadZeroAndIgnoreWrites: each range at its ends. -/
theorem witness_reserved :
    ∀ off ∈ [0x008, 0x00C, 0x080, 0x0FC, 0x1B0, 0x3FC], off % 4 = 0 ∧
      (off = 0x008 ∨ off = 0x00C ∨ (0x080 ≤ off ∧ off ≤ 0x0FC) ∨ (0x1B0 ≤ off ∧ off ≤ 0x3FC)) := by decide

/-- OnlyWholeAlignedRegistersAreAccessed, AccessesOutsideTheWindowAreRefused: each kind of access. -/
theorem witness_accesses :
    (2 ≠ 4 ∨ 0x010 % 4 ≠ 0) ∧ (4 ≠ 4 ∨ 0x011 % 4 ≠ 0) ∧ (0x3FC % 4 = 0 ∧ 0x3FC < 0x400) ∧
      0x400 ≤ 0x400 := by decide

/-- OnlyACmdWriteTellsKeyOrPendingApart: a read of KEY, a read of STATUS, a write of KEY, a write of STATUS. -/
theorem witness_invisible :
    ∀ a ∈ [Access.read 0x010 4, .read 0x004 4, .write 0x010 4 1, .write 0x004 4 0x10],
      (∀ bytes v, a ≠ .write 0x000 bytes v) ∧ ∃ t, runAccess a (running .expandKey 1 []) = .next t := by
  intro a ha
  simp only [List.mem_cons, List.not_mem_nil, or_false] at ha
  rcases ha with rfl | rfl | rfl | rfl <;> exact ⟨by simp, _, rfl⟩

/-- InputWritesDoNotReachTheCommandInFlight: a write of each bank while a command runs. -/
theorem witness_input_writes (j : Fin 4) (k : Fin 8) (v : Word) :
    (∃ t, memWrite (regOffset (.key j)) v (running .randEncrypt 1 []) = .next t) ∧
      (∃ t, memWrite (regOffset (.block j)) v (running .randEncrypt 1 []) = .next t) ∧
      (∃ t, memWrite (regOffset (.nonce j)) v (running .randEncrypt 1 []) = .next t) ∧
      ∃ t, memWrite (regOffset (.ctin k)) v (running .randEncrypt 1 []) = .next t := by
  simp [memWrite, writeReg]

/-- LatencyDoesNotDependOnData: two idle cores with different keys that accept the same word. -/
theorem witness_latency :
    (ready []).status.busy = false ∧ (ready []).pend = none ∧
      (∃ t, issueCommand 0x00001001#32 (ready []) = .next t ∧ t.status.busy = true) ∧
      ∃ t, issueCommand 0x00001001#32 { ready [] with key := .replicate 4 1 } = .next t ∧ t.status.busy = true :=
  ⟨rfl, rfl, ⟨_, rfl, rfl⟩, ⟨_, rfl, rfl⟩⟩

/-- AcceptedCommandsComplete: before the last step and after it. -/
theorem witness_completes :
    CoreInvariant (running .randDecrypt 1 []) ∧ (running .randDecrypt 1 []).pend = some (record .randDecrypt 1) ∧
      0 < (record .randDecrypt 1).left ∧ (record .randDecrypt 1).left ≤ 1 :=
  ⟨running_invariant _ _, rfl, by decide, by decide⟩

/-- SameBlockAndScheduleSameOut: two cores with the same BLOCK and RKS and different keys, and two lengths not read. -/
theorem witness_same_block :
    (ready []).status.busy = false ∧ (ready []).status.rksValid = true ∧
      (ready []).block = ({ ready [] with key := .replicate 4 1 } : State).block ∧
      (ready []).rks = ({ ready [] with key := .replicate 4 1 } : State).rks ∧
      (∃ t, exec (.encryptBlock 0 16 0) (ready []) = .next t) ∧
      ∃ t, exec (.encryptBlock 63 16 1) { ready [] with key := .replicate 4 1 } = .next t :=
  ⟨rfl, rfl, rfl, rfl, ⟨_, rfl⟩, ⟨_, rfl⟩⟩

/-- ResetLeavesEveryRegisterZero, ResetCycleRestoresTheResetState: the three reset cycles, at both ends of the window. -/
theorem witness_reset_cycles :
    (running .expandKey 2 [.resetCycle none]).todo = [.resetCycle none] ∧
      (running .expandKey 2 [.resetCycle (some (.write 0x000 4 1))]).todo = [.resetCycle (some (.write 0x000 4 1))] ∧
      (running .expandKey 2 [.resetCycle (some (.read 0x3FC 4))]).todo = [.resetCycle (some (.read 0x3FC 4))] ∧
      (0x000 % 4 = 0 ∧ 0x000 < 0x400) ∧ 0x3FC % 4 = 0 ∧ 0x3FC < 0x400 := ⟨rfl, rfl, rfl, by decide, by decide⟩

/-- DecryptionRecoversTheBlock: the OUT of the first command in CTIN, the key written again. -/
theorem witness_round_trip :
    ∃ s u t : State, s.status.busy = false ∧ u.status.busy = false ∧ u.key = s.key ∧
      exec (.randEncrypt 16 16 16) s = .next t ∧ u.ctin = (engineSteps Config.latRandEnc t).out :=
  ⟨ready [], { ready [] with ctin := (engineSteps Config.latRandEnc (startedBy (.randEncrypt 16 16 16) (ready []))).out },
    startedBy (.randEncrypt 16 16 16) (ready []), rfl, rfl, rfl, rfl, rfl⟩

/-- PollIsTheLoopOfReads: one step left, with the invariant and a read before the last, and two. -/
theorem witness_poll :
    CoreInvariant (running .expandKey 1 []) ∧ (running .expandKey 1 []).pend = some (record .expandKey 1) ∧
      1 ≤ (record .expandKey 1).left ∧ 0 < (record .expandKey 1).left ∧
      (running .expandKey 2 []).pend = some (record .expandKey 2) ∧ 1 ≤ (record .expandKey 2).left :=
  ⟨running_invariant _ _, rfl, by decide, by decide, rfl, by decide⟩

/-- OnlyAnInexpressibleAccessStops: a step that answers a next state, and the two that stop. -/
theorem witness_stops :
    (∃ t, step (ready [rdEvent .status]) = .next t) ∧
      step (ready [.access (.read 0x011 4)]) = .refused .accessNotExpressible ∧
      step (ready [.access (.read 0x400 4)]) = .refused .accessNotExpressible := ⟨⟨_, rfl⟩, rfl, rfl⟩

/-- StepRunsTheNextEvent: a state for each kind of event, and one with none. -/
theorem witness_next_event (e : Event) :
    (ready [e]).todo = e :: [] ∧ (running .encryptBlock 2 [.engineStep]).todo = .engineStep :: [] ∧
      (ready []).todo = [] := ⟨rfl, rfl, rfl⟩

/-- InputRegistersAreWrittenByTheHostAlone: a register of each bank changed by a host write, at both ends of the banks;
KEY changed by the acceptance of a key-consuming command, and by reset. -/
theorem witness_input_changes :
    (NextWrites (0x020 + 4 * 0) 1 (running .expandKey 1 [wrEvent (.block 0) 1]) ∧
        ∃ t, step (running .expandKey 1 [wrEvent (.block 0) 1]) = .next t ∧ t.block[0] ≠ 0) ∧
      (NextWrites (0x030 + 4 * 3) 1 (ready [wrEvent (.nonce 3) 1]) ∧
        ∃ t, step (ready [wrEvent (.nonce 3) 1]) = .next t ∧ t.nonce[3] ≠ 0) ∧
      (NextWrites (0x040 + 4 * 7) 1 (ready [wrEvent (.ctin 7) 1]) ∧
        ∃ t, step (ready [wrEvent (.ctin 7) 1]) = .next t ∧ t.ctin[7] ≠ 0) ∧
      (NextWrites (0x010 + 4 * 3) 1 (ready [wrEvent (.key 3) 1]) ∧
        ∃ t, step (ready [wrEvent (.key 3) 1]) = .next t ∧ t.key[3] ≠ 0) ∧
      (∃ t, step { ready [wrEvent .cmd 0x00001001#32] with key := .replicate 4 1 } = .next t ∧ t.key[0] ≠ 1) ∧
      ∃ t, step { ready [.resetCycle none] with key := .replicate 4 1 } = .next t ∧ t.key[0] ≠ 1 :=
  ⟨⟨⟨_, rfl⟩, _, rfl, by decide⟩, ⟨⟨_, rfl⟩, _, rfl, by decide⟩, ⟨⟨_, rfl⟩, _, rfl, by decide⟩,
    ⟨⟨_, rfl⟩, _, rfl, by decide⟩, ⟨_, rfl, by decide⟩, ⟨_, rfl, by decide⟩⟩

/-- PendingIsWrittenByAcceptanceTheEngineAndReset: an acceptance and an engine step that is not the last; its commits
and resets are those of witness_step_commits and witness_step_resets. -/
theorem witness_pending :
    (NextWrites 0x000 0x10101003#32 (issuing false 0x10101003#32) ∧
        (issuing false 0x10101003#32).status.busy = false ∧ firstError 0x10101003#32 false = none ∧
        ∃ t, step (issuing false 0x10101003#32) = .next t ∧ t.pend.isSome = true) ∧
      (running .randDecrypt 2 [.engineStep]).todo = .engineStep :: [] ∧
      (running .randDecrypt 2 [.engineStep]).pend = some (record .randDecrypt 2) ∧ 2 ≤ (record .randDecrypt 2).left ∧
      ∃ t, step (running .randDecrypt 2 [.engineStep]) = .next t ∧ t.pend = some (record .randDecrypt 1) :=
  ⟨⟨⟨_, rfl⟩, rfl, by decide, ⟨_, rfl, rfl⟩⟩, rfl, rfl, by decide, ⟨_, rfl, rfl⟩⟩

end Sys2Proof.Tests
end

/-! PROOFS. The command word: its fields as arithmetic, what a legal word decodes to, and the check of a command
against the table of errors (30_encoding.md R70 to R75; 60_exceptions.md R203). -/

namespace Sys2Proof.Proofs
open Sys2Proof.Machine Sys2Proof.Claims

theorem opField_eq_iff (v : Word) (op : BitVec 4) : opField v = op ↔ v.toNat % 16 = op.toNat := by
  rw [← BitVec.toNat_inj]
  simp [opField]

theorem klenField_eq (v : Word) : klenField v = v.toNat / 2 ^ 8 % 64 := by
  simp [klenField, Nat.shiftRight_eq_div_pow]

theorem blenField_eq (v : Word) : blenField v = v.toNat / 2 ^ 16 % 64 := by
  simp [blenField, Nat.shiftRight_eq_div_pow]

theorem xlenField_eq (v : Word) : xlenField v = v.toNat / 2 ^ 24 % 64 := by
  simp [xlenField, Nat.shiftRight_eq_div_pow]

/-- Without reserved bits nothing of a word is lost in its fields (R70). -/
theorem packWord_fields (v : Word) (h : v &&& reservedMask = 0) :
    packWord (opField v) (klenField v) (blenField v) (xlenField v) = v := by
  apply BitVec.eq_of_getLsbD_eq
  intro i hi
  have hr : (v &&& reservedMask).getLsbD i = false := by rw [h]; simp
  simp only [packWord, opField, klenField, blenField, xlenField, BitVec.ofNat_toNat, BitVec.setWidth_eq,
    BitVec.getLsbD_append, BitVec.getLsbD_extractLsb']
  rw [BitVec.getLsbD_and] at hr
  interval_cases i <;> simp_all [reservedMask]

/-- What a legal word decodes to, by its OP field (R74). -/
theorem decode_ok {v : Word} {i : Instr} (h : decode v = .ok i) :
    v &&& reservedMask = 0 ∧
      ((opField v = 0x1 ∧ i = .expandKey (klenField v) (blenField v) (xlenField v)) ∨
        (opField v = 0x2 ∧ i = .encryptBlock (klenField v) (blenField v) (xlenField v)) ∨
        (opField v = 0x3 ∧ i = .randEncrypt (klenField v) (blenField v) (xlenField v)) ∨
        (opField v = 0x4 ∧ i = .randDecrypt (klenField v) (blenField v) (xlenField v))) := by
  unfold decode at h
  split_ifs at h <;> simp_all

theorem encode_of_decode {v : Word} {i : Instr} (h : decode v = .ok i) : encode i = v := by
  obtain ⟨hr, hi⟩ := decode_ok h
  have hp := packWord_fields v hr
  rcases hi with ⟨ho, rfl⟩ | ⟨ho, rfl⟩ | ⟨ho, rfl⟩ | ⟨ho, rfl⟩ <;> rwa [ho] at hp

theorem opOf_of_decode {v : Word} {i : Instr} (h : decode v = .ok i) : opOf i = opOfWord v := by
  obtain ⟨-, hi⟩ := decode_ok h
  simp only [opField_eq_iff] at hi
  rcases hi with ⟨ho, rfl⟩ | ⟨ho, rfl⟩ | ⟨ho, rfl⟩ | ⟨ho, rfl⟩ <;> simp [opOf, opOfWord, ho]

/-- `Check_op` of a command (R78). -/
def checkOf : Instr → State → Option ErrorCode
  | .expandKey klen _ _ => checkExpandKey klen
  | .encryptBlock _ blen _ => checkEncryptBlock blen
  | .randEncrypt klen blen xlen => checkRandEncrypt klen blen xlen
  | .randDecrypt klen _ xlen => checkRandDecrypt klen xlen

/-- `Accept_op` of a command: every operation but ENCRYPT_BLOCK takes KEY and clears it (R28, R78). -/
def acceptOf (i : Instr) (s : State) : State := if opOf i = .encryptBlock then s else clearKey s

/-- The four arms of `exec` are one shared `issue`, with the command's own check and acceptance effect. -/
theorem exec_eq_issue (i : Instr) (s : State) :
    exec i s = issue (opOf i) (encode i) (checkOf i) (acceptOf i) s := by
  cases i <;> rfl

/-- No check reads what the acceptance of the word has just written. -/
@[simp] theorem checkOf_acceptWord (i : Instr) (v : Word) (s : State) :
    checkOf i (acceptWord v s) = checkOf i s := by
  cases i <;> rfl

theorem lengthsRight_of_checkOf {i : Instr} {s : State} (h : checkOf i s = none) :
    lengthsRight i = true ∧ (opOf i = .encryptBlock → s.status.rksValid = true) := by
  cases i with
  | expandKey klen blen xlen => simpa [checkOf, checkExpandKey, lengthsRight, opOf] using h
  | encryptBlock klen blen xlen =>
    simp only [checkOf, checkEncryptBlock] at h
    grind [lengthsRight, opOf]
  | randEncrypt klen blen xlen =>
    simp only [checkOf, checkRandEncrypt] at h
    grind [lengthsRight, opOf]
  | randDecrypt klen blen xlen =>
    simp only [checkOf, checkRandDecrypt] at h
    grind [lengthsRight, opOf]

/-- The table of R203, on the bits of a legal word, is the check of its command. -/
theorem firstError_of_decode {v : Word} {i : Instr} (h : decode v = .ok i) (s : State) :
    firstError v s.status.rksValid = (checkOf i s).map errorNumber := by
  obtain ⟨hr, hi⟩ := decode_ok h
  have hr' : v &&& 0xC0C0C0F0#32 = 0 := hr
  simp only [opField_eq_iff] at hi
  rcases hi with ⟨ho, rfl⟩ | ⟨ho, rfl⟩ | ⟨ho, rfl⟩ | ⟨ho, rfl⟩
  · simp [firstError, hr', ho, checkOf, checkExpandKey, klenField_eq, apply_ite (Option.map errorNumber), errorNumber]
  · simp only [firstError, hr', checkOf, checkEncryptBlock, blenField_eq]
    grind [errorNumber]
  · simp [firstError, hr', ho, checkOf, checkRandEncrypt, klenField_eq, blenField_eq, xlenField_eq,
      apply_ite (Option.map errorNumber), errorNumber]
  · simp [firstError, hr', ho, checkOf, checkRandDecrypt, klenField_eq, xlenField_eq,
      apply_ite (Option.map errorNumber), errorNumber]

theorem firstError_of_illegal {v : Word} {e : DecodeError} (h : decode v = .error e) (rksValid : Bool) :
    firstError v rksValid = some 5 := by
  have hm : reservedMask = 0xC0C0C0F0#32 := rfl
  simp only [decode, opField_eq_iff] at h
  simp only [firstError]
  grind

/-- A word that passes the table of R203 is legal, and its command has passed its checks. -/
theorem passed_of_firstError {v : Word} {s : State} (h : firstError v s.status.rksValid = none) :
    (∃ i, decode v = .ok i ∧ opOf i = opOfWord v ∧ lengthsRight i = true) ∧
      (opOfWord v = .encryptBlock → s.status.rksValid = true) := by
  cases hd : decode v with
  | error e => simp [firstError_of_illegal hd] at h
  | ok i =>
    rw [firstError_of_decode hd, Option.map_eq_none_iff] at h
    obtain ⟨hl, hs⟩ := lengthsRight_of_checkOf h
    exact ⟨⟨i, rfl, opOf_of_decode hd, hl⟩, opOf_of_decode hd ▸ hs⟩

theorem errorNumber_le (e : ErrorCode) : (errorNumber e).toNat ≤ 5 := by
  cases e <;> decide

theorem firstError_le {v : Word} {s : State} {code : BitVec 4} (h : firstError v s.status.rksValid = some code) :
    code.toNat ≤ 5 := by
  cases hd : decode v with
  | error e =>
    rw [firstError_of_illegal hd, Option.some.injEq] at h
    simp [← h]
  | ok i =>
    rw [firstError_of_decode hd, Option.map_eq_some_iff] at h
    obtain ⟨e, -, rfl⟩ := h
    exact errorNumber_le e

end Sys2Proof.Proofs

/-! PROOFS. The issue of a word and the commit of a command, field by field (30_encoding.md R78 to R82). -/

namespace Sys2Proof.Proofs
open Sys2Proof.Machine Sys2Proof.Claims

/-- The state an idle core is left in by the issue of a word: failed with the first error of R203, or started. -/
def issued (v : Word) (s : State) : State :=
  match firstError v s.status.rksValid with
  | some code => failed code v s
  | none => started (opOfWord v) v (if opOfWord v = .encryptBlock then s.key else zeroKey) s

theorem raiseError_acceptWord (e : ErrorCode) (v : Word) (s : State) (h : s.status.busy = false) :
    raiseError e (acceptWord v s) = failed (errorNumber e) v s := by
  simp only [raiseError, acceptWord, failed, statusFail, statusAccept, h]

theorem startCommand_acceptOf (i : Instr) (v : Word) (s : State) :
    startCommand (opOf i) v (snapshot s) (acceptOf i (acceptWord v s)) =
      started (opOf i) v (if opOf i = .encryptBlock then s.key else zeroKey) s := by
  unfold acceptOf
  split <;> rfl

theorem issueCommand_busy (v : Word) (s : State) (h : s.status.busy = true) :
    issueCommand v s = .next (dropCommand s) := by
  unfold issueCommand
  cases decode v with
  | error e => simp [issueIllegal, h]
  | ok i => exact (exec_eq_issue i s).trans (issue_busy _ _ _ _ _ h)

theorem issueCommand_idle (v : Word) (s : State) (h : s.status.busy = false) :
    issueCommand v s = .next (issued v s) := by
  unfold issueCommand issued
  cases hd : decode v with
  | error e => simp [firstError_of_illegal hd, issueIllegal, h, raiseError_acceptWord, errorNumber]
  | ok i =>
    rw [firstError_of_decode hd, ← opOf_of_decode hd]
    simp only [exec_eq_issue, encode_of_decode hd]
    cases hc : checkOf i s with
    | some e => simp [issue_error _ _ _ _ _ e h ((checkOf_acceptWord i v s).trans hc), raiseError_acceptWord, h]
    | none => simp [issue_start _ _ _ _ _ h ((checkOf_acceptWord i v s).trans hc), startCommand_acceptOf]

section
variable (v : Word) (s : State)

@[simp] theorem issued_cmd : (issued v s).cmd = v := by unfold issued; split <;> rfl

@[simp] theorem issued_busy : (issued v s).status.busy = (firstError v s.status.rksValid).isNone := by
  unfold issued; split <;> simp_all [failed, started]

@[simp] theorem issued_done : (issued v s).status.done = (firstError v s.status.rksValid).isSome := by
  unfold issued; split <;> simp_all [failed, started]

@[simp] theorem issued_rksValid : (issued v s).status.rksValid = s.status.rksValid := by
  unfold issued; split <;> rfl

@[simp] theorem issued_ovr : (issued v s).status.ovr = s.status.ovr := by unfold issued; split <;> rfl

@[simp] theorem issued_errcode : (issued v s).status.errcode = (firstError v s.status.rksValid).getD 0 := by
  unfold issued; split <;> simp_all [failed, started]

@[simp] theorem issued_key : (issued v s).key =
    if firstError v s.status.rksValid = none ∧ opOfWord v ≠ .encryptBlock then zeroKey else s.key := by
  unfold issued; split <;> simp_all [failed, started]

@[simp] theorem issued_block : (issued v s).block = s.block := by unfold issued; split <;> rfl

@[simp] theorem issued_nonce : (issued v s).nonce = s.nonce := by unfold issued; split <;> rfl

@[simp] theorem issued_ctin : (issued v s).ctin = s.ctin := by unfold issued; split <;> rfl

@[simp] theorem issued_out : (issued v s).out = s.out := by unfold issued; split <;> rfl

@[simp] theorem issued_rks : (issued v s).rks = s.rks := by unfold issued; split <;> rfl

@[simp] theorem issued_pend : (issued v s).pend =
    if firstError v s.status.rksValid = none then
      some { op := opOfWord v, word := v, snap := snapshot s, left := latency (opOfWord v) }
    else s.pend := by
  unfold issued; split <;> simp_all [failed, started]

/-- The issue of a word neither reads nor writes OVR (R26). -/
theorem issued_withOvr (b : Bool) : issued v (withOvr b s) = withOvr b (issued v s) := by
  simp only [issued, withOvr]
  split <;> rfl

end

@[simp] theorem snapshot_takeEvent (rest : List Event) (s : State) : snapshot (takeEvent rest s) = snapshot s := rfl

section
variable (p : Pending) (s : State)

@[simp] theorem applyResult_cmd : (applyResult p s).cmd = s.cmd := by unfold applyResult; split <;> rfl

@[simp] theorem applyResult_status : (applyResult p s).status =
    { s.status with rksValid := s.status.rksValid || decide (p.op = .expandKey) } := by
  unfold applyResult
  cases p.op <;> simp [resultExpandKey, resultEncryptBlock, resultRandEncrypt, resultRandDecrypt]

@[simp] theorem applyResult_key : (applyResult p s).key = s.key := by unfold applyResult; split <;> rfl

@[simp] theorem applyResult_block : (applyResult p s).block = s.block := by unfold applyResult; split <;> rfl

@[simp] theorem applyResult_nonce : (applyResult p s).nonce = s.nonce := by unfold applyResult; split <;> rfl

@[simp] theorem applyResult_ctin : (applyResult p s).ctin = s.ctin := by unfold applyResult; split <;> rfl

@[simp] theorem applyResult_rks : (applyResult p s).rks =
    if p.op = .expandKey then keyExpansion p.snap.key else s.rks := by
  unfold applyResult; cases p.op <;> rfl

theorem applyResult_out : (applyResult p s).out =
    match p.op with
    | .expandKey => s.out
    | .encryptBlock => words32 (padOut (cipher p.snap.block s.rks))
    | .randEncrypt => words32 (randEnc p.snap.block p.snap.key p.snap.nonce)
    | .randDecrypt => words32 (padOut (randDec p.snap.ctin p.snap.key)) := by
  unfold applyResult; cases p.op <;> rfl

end

/-- An engine step that does not commit changes PEND alone (R81). -/
theorem engineStep_cases (s : State) : engineStep s = commit s ∨ ∃ q, engineStep s = { s with pend := q } := by
  cases hp : s.pend with
  | none => exact .inl ((engineStep_none s hp).trans (commit_none s hp).symm)
  | some p =>
    by_cases hl : p.left = 1
    · exact .inl (engineStep_last s p hp hl)
    · exact .inr ⟨_, engineStep_more s p hp hl⟩

@[simp] theorem commit_ovr (s : State) : (commit s).status.ovr = s.status.ovr := by
  cases hp : s.pend with
  | none => rw [commit_none s hp]
  | some p => simp [commit_some s p hp]

@[simp] theorem engineStep_ovr (s : State) : (engineStep s).status.ovr = s.status.ovr := by
  obtain h | ⟨q, h⟩ := engineStep_cases s <;> simp [h]

theorem latency_pos (op : Op) : 1 ≤ latency op := by
  cases op <;> exact Nat.le_add_left 1 _

end Sys2Proof.Proofs

/-! PROOFS. Registers at their offsets, and what a step at each kind of event does (20_memory.md R55 to R60). -/

namespace Sys2Proof.Proofs
open Sys2Proof.Machine Sys2Proof.Claims

theorem memWrite_regOffset (r : Reg) (v : Word) (s : State) : memWrite (regOffset r) v s = writeReg v s r := by
  simp [memWrite]

theorem memRead_regOffset (r : Reg) (s : State) : memRead s (regOffset r) = readReg s r := by
  simp [memRead]

theorem regOffset_aligned (r : Reg) : regOffset r % 4 = 0 ∧ regOffset r < windowBytes := by
  cases r <;> simp [regOffset, windowBytes] <;> omega

theorem regOffset_of_regAt {off : Nat} {r : Reg} (h4 : off % 4 = 0) (h : regAt off = some r) :
    regOffset r = off := by
  unfold regAt at h
  split_ifs at h <;> simp only [Option.some.injEq] at h <;> subst h <;> simp only [regOffset] <;> omega

theorem step_writes {r : Reg} {v : Word} {s : State} (h : NextWrites (regOffset r) v s) :
    ∃ rest, step s = writeReg v (takeEvent rest s) r := by
  obtain ⟨rest, he⟩ := h
  obtain ⟨h4, hw⟩ := regOffset_aligned r
  refine ⟨rest, ?_⟩
  rw [step_cons s _ rest he, runEvent, runAccess_write _ _ _ h4 hw, memWrite_regOffset]

section
variable {s t : State} (h : step s = .next t)
include h

theorem step_drops {v : Word} (hw : NextWrites 0x000 v s) (hb : s.status.busy = true) :
    ∃ rest, t = dropCommand (takeEvent rest s) := by
  obtain ⟨rest, hs⟩ := step_writes (r := .cmd) hw
  rw [h, writeReg, issueCommand_busy v (takeEvent rest s) hb] at hs
  exact ⟨rest, Host.Outcome.next.inj hs⟩

theorem step_accepts {v : Word} (hw : NextWrites 0x000 v s) (hb : s.status.busy = false) :
    ∃ rest, t = issued v (takeEvent rest s) := by
  obtain ⟨rest, hs⟩ := step_writes (r := .cmd) hw
  rw [h, writeReg, issueCommand_idle v (takeEvent rest s) hb] at hs
  exact ⟨rest, Host.Outcome.next.inj hs⟩

theorem step_resets (hr : NextResets s) : ∃ a rest, t = { State.reset with rdata := resetRdata a, todo := rest } := by
  obtain ⟨a, rest, he⟩ := hr
  rw [step_cons s _ rest he] at h
  exact ⟨a, rest, runResetCycle_next a _ t h⟩

theorem step_commits {p : Pending} (hc : NextCommits s p) :
    ∃ rest, t = finishCommand (applyResult p (takeEvent rest s)) := by
  obtain ⟨hp, hc⟩ := hc
  have hs : ∃ rest, step s = .next (commit (takeEvent rest s)) := by
    obtain he | ⟨rest, he⟩ | ⟨hl, rest, he⟩ := hc
    · exact ⟨[], step_nil s he⟩
    · exact ⟨rest, step_cons s _ rest he⟩
    · exact ⟨rest, by rw [step_cons s _ rest he, runEvent, engineStep_last (takeEvent rest s) p hp hl]⟩
  obtain ⟨rest, hs⟩ := hs
  rw [commit_some (takeEvent rest s) p hp, h] at hs
  exact ⟨rest, Host.Outcome.next.inj hs⟩

end

/-- What only acceptance, commit and reset write: all of the command state but PEND, which an engine step counts
down, and OVR, which the host clears. -/
structure SameCommandState (s t : State) : Prop where
  cmd : t.cmd = s.cmd
  busy : t.status.busy = s.status.busy
  done : t.status.done = s.status.done
  rksValid : t.status.rksValid = s.status.rksValid
  errcode : t.status.errcode = s.status.errcode
  out : t.out = s.out
  rks : t.rks = s.rks

/-- What a step can be to the command state. -/
inductive CommandStep (s t : State) : Prop
  /-- An idle core accepts a word (R78). -/
  | accept (v : Word) (rest : List Event) (event : NextWrites 0x000 v s) (idle : s.status.busy = false)
      (result : t = issued v (takeEvent rest s))
  /-- The command in flight commits (R82). -/
  | commit (p : Pending) (rest : List Event) (event : NextCommits s p)
      (result : t = finishCommand (applyResult p (takeEvent rest s)))
  /-- A reset cycle (R230). -/
  | reset (a : Option Access) (rest : List Event) (event : NextResets s)
      (result : t = { State.reset with rdata := resetRdata a, todo := rest })
  /-- An engine step that is not the last (R81). -/
  | countDown (p : Pending) (rest : List Event) (event : s.todo = .engineStep :: rest) (inFlight : s.pend = some p)
      (more : p.left ≠ 1) (pend : t.pend = some { p with left := p.left - 1 }) (same : SameCommandState s t)
  /-- A dropped word, any other host access, or an idle engine: no command's state changes (R26, R57, R58, R81). -/
  | other (pend : t.pend = s.pend) (same : SameCommandState s t)

theorem commandStep_of_step {s t : State} (h : step s = .next t) : CommandStep s t := by
  cases step_cases s t h with
  | cmd v rest event _ =>
    cases hb : s.status.busy with
    | false =>
      obtain ⟨rest', result⟩ := step_accepts h ⟨rest, event⟩ hb
      exact .accept v rest' ⟨rest, event⟩ hb result
    | true =>
      obtain ⟨_, rfl⟩ := step_drops h ⟨rest, event⟩ hb
      exact .other rfl ⟨rfl, rfl, rfl, rfl, rfl, rfl, rfl⟩
  | status v rest _ result =>
    subst result
    exact .other rfl (by constructor <;> simp)
  | input off v rest _ _ _ result =>
    obtain ⟨_, _, _, _, rfl⟩ := result
    exact .other rfl ⟨rfl, rfl, rfl, rfl, rfl, rfl, rfl⟩
  | read off rest _ result =>
    subst result
    exact .other rfl ⟨rfl, rfl, rfl, rfl, rfl, rfl, rfl⟩
  | reset a rest event result => exact .reset a rest ⟨a, rest, event⟩ result
  | finish rest event result =>
    cases hp : s.pend with
    | none =>
      rw [commit_none (takeEvent rest s) hp] at result
      subst result
      exact .other rfl ⟨rfl, rfl, rfl, rfl, rfl, rfl, rfl⟩
    | some p =>
      have hc : NextCommits s p := ⟨hp, event.elim (fun e => .inr (.inl ⟨rest, e⟩)) fun e => .inl e.1⟩
      obtain ⟨rest', result⟩ := step_commits h hc
      exact .commit p rest' hc result
  | engine rest event result =>
    cases hp : s.pend with
    | none =>
      rw [engineStep_none (takeEvent rest s) hp] at result
      subst result
      exact .other rfl ⟨rfl, rfl, rfl, rfl, rfl, rfl, rfl⟩
    | some p =>
      by_cases hl : p.left = 1
      · have hc : NextCommits s p := ⟨hp, .inr (.inr ⟨hl, rest, event⟩)⟩
        obtain ⟨rest', result⟩ := step_commits h hc
        exact .commit p rest' hc result
      · rw [engineStep_more (takeEvent rest s) p hp hl] at result
        subst result
        exact .countDown p rest event hp hl rfl ⟨rfl, rfl, rfl, rfl, rfl, rfl, rfl⟩

/-- Only an acceptance, a commit and a reset cycle change the command state. -/
theorem event_of_changed {s t : State} (h : step s = .next t) (changed : ¬ SameCommandState s t) :
    (∃ v, NextWrites 0x000 v s ∧ s.status.busy = false) ∨ (∃ p, NextCommits s p) ∨ NextResets s := by
  cases commandStep_of_step h with
  | accept v _ event idle _ => exact .inl ⟨v, event, idle⟩
  | commit p _ event _ => exact .inr (.inl ⟨p, event⟩)
  | reset _ _ event _ => exact .inr (.inr event)
  | countDown _ _ _ _ _ _ same => exact absurd same changed
  | other _ same => exact absurd same changed

end Sys2Proof.Proofs

/-! PROOFS. The invariant: at reset, and kept by every step (10_state.md R23 to R27, R36, R41). -/

namespace Sys2Proof.Proofs
open Sys2Proof.Machine Sys2Proof.Claims

/-- Settles O49: no command is in flight and the schedule store is the zero store. -/
theorem invHoldsAtReset : Obligations.InvHoldsAtReset where
  pendBusy := rfl
  busyNotDone := nofun
  errDone := nofun
  errRange := by decide
  pending := nofun
  validSchedule := nofun
  emptySchedule := fun _ => rfl

theorem pendingOk_of_same {s t : State} {p : Pending} (same : SameCommandState s t) (h : PendingOk s p) :
    PendingOk t p where
  word := same.cmd.trans h.word
  passed := h.passed
  pos := h.pos
  bounded := h.bounded
  schedule := fun e => same.rksValid.trans (h.schedule e)

theorem pendingOk_countDown {s : State} {p : Pending} (h : PendingOk s p) (more : p.left ≠ 1) :
    PendingOk s { p with left := p.left - 1 } where
  word := h.word
  passed := h.passed
  pos := by have := h.pos; show 1 ≤ p.left - 1; omega
  bounded := (Nat.sub_le _ _).trans h.bounded
  schedule := h.schedule

theorem coreInvariant_of_same {s t : State} (same : SameCommandState s t) (h : CoreInvariant s)
    (isSome : t.pend.isSome = s.pend.isSome) (pending : ∀ p, t.pend = some p → PendingOk t p) : CoreInvariant t where
  pendBusy := by rw [isSome, same.busy, h.pendBusy]
  busyNotDone := by rw [same.busy, same.done]; exact h.busyNotDone
  errDone := by rw [same.errcode, same.done]; exact h.errDone
  errRange := by rw [same.errcode]; exact h.errRange
  pending := pending
  validSchedule := by rw [same.rksValid, same.rks]; exact h.validSchedule
  emptySchedule := by rw [same.rksValid, same.rks]; exact h.emptySchedule

theorem coreInvariant_issued {s : State} (v : Word) (rest : List Event) (idle : s.status.busy = false)
    (h : CoreInvariant s) : CoreInvariant (issued v (takeEvent rest s)) := by
  have hp : s.pend = none := by simpa [idle] using h.pendBusy
  have hv := h.validSchedule
  have he := h.emptySchedule
  cases hf : firstError v s.status.rksValid with
  | none =>
    obtain ⟨hi, hs⟩ := passed_of_firstError hf
    have hpend : PendingOk (issued v (takeEvent rest s))
        { op := opOfWord v, word := v, snap := snapshot s, left := latency (opOfWord v) } :=
      ⟨issued_cmd _ _, hi, latency_pos _, le_rfl, by simpa using hs⟩
    constructor <;> simp_all
  | some code =>
    have hc := firstError_le hf
    constructor <;> simp_all

theorem coreInvariant_commit {s : State} (p : Pending) (rest : List Event) (h : CoreInvariant s) :
    CoreInvariant (finishCommand (applyResult p (takeEvent rest s))) where
  pendBusy := rfl
  busyNotDone := nofun
  errDone := fun _ => rfl
  errRange := by simpa using h.errRange
  pending := nofun
  validSchedule := by
    by_cases ho : p.op = .expandKey
    · simp [ho]
    · simpa [ho] using h.validSchedule
  emptySchedule := by
    by_cases ho : p.op = .expandKey
    · simp [ho]
    · simpa [ho] using h.emptySchedule

theorem coreInvariant_resetCycle (rdata : Option Word) (todo : List Event) :
    CoreInvariant { State.reset with rdata := rdata, todo := todo } :=
  coreInvariant_of_same (s := State.reset) ⟨rfl, rfl, rfl, rfl, rfl, rfl, rfl⟩ invHoldsAtReset rfl nofun

/-- Settles O50, by the kinds of step to the command state. -/
theorem stepKeepsInv : Obligations.StepKeepsInv := by
  intro s t hs h
  cases commandStep_of_step h with
  | accept v rest _ idle result => exact result ▸ coreInvariant_issued v rest idle hs
  | commit p rest _ result => exact result ▸ coreInvariant_commit p rest hs
  | reset a rest _ result => exact result ▸ coreInvariant_resetCycle _ _
  | countDown p rest _ inFlight more pend same =>
    refine coreInvariant_of_same same hs (by simp [pend, inFlight]) fun q hq => ?_
    obtain rfl := Option.some.inj (pend.symm.trans hq)
    exact pendingOk_of_same same (pendingOk_countDown (hs.pending p inFlight) more)
  | other pend same =>
    exact coreInvariant_of_same same hs (by rw [pend]) fun q hq => pendingOk_of_same same (hs.pending q (pend ▸ hq))

/-- While a command is in flight ERRCODE is 0 (R27). -/
theorem errcode_of_inFlight {s : State} {p : Pending} (h : CoreInvariant s) (hp : s.pend = some p) :
    s.status.errcode = 0 := by
  have hb : s.status.busy = true := by rw [← h.pendBusy, hp]; rfl
  by_contra he
  simpa [h.busyNotDone hb] using h.errDone he

end Sys2Proof.Proofs

/-! PROOFS. What writes the fields of STATUS, CMD and PEND (10_state.md R21 to R27, R36). -/

namespace Sys2Proof.Proofs
open Sys2Proof.Machine Sys2Proof.Claims

/-- Settles O29. -/
theorem busyIsWrittenByAcceptanceCommitAndReset : Obligations.BusyIsWrittenByAcceptanceCommitAndReset := by
  intro s t h
  refine ⟨fun v hw hb => ?_, fun p hc => ?_, fun hr => ?_, fun hne => event_of_changed h fun same => hne same.busy⟩
  · obtain ⟨rest, rfl⟩ := step_accepts h hw hb
    simp
  · obtain ⟨rest, rfl⟩ := step_commits h hc
    simp
  · obtain ⟨a, rest, rfl⟩ := step_resets h hr
    rfl

/-- Settles O30. -/
theorem doneIsWrittenByAcceptanceCompletionAndReset : Obligations.DoneIsWrittenByAcceptanceCompletionAndReset := by
  intro s t h
  refine ⟨fun v hw hb => ?_, fun p hc => ?_, fun hr => ?_, fun hne => event_of_changed h fun same => hne same.done⟩
  · obtain ⟨rest, rfl⟩ := step_accepts h hw hb
    simp
  · obtain ⟨rest, rfl⟩ := step_commits h hc
    simp
  · obtain ⟨a, rest, rfl⟩ := step_resets h hr
    rfl

/-- Settles O31: a commit does not write ERRCODE, and under the invariant it was 0 while the command was in flight. -/
theorem errcodeIsTheCodeOfTheLastCommand : Obligations.ErrcodeIsTheCodeOfTheLastCommand := by
  intro s t h
  refine ⟨fun v hw hb => ?_, fun hr => ?_, fun hne => ?_,
    fun hs => ⟨fun p hc => ?_, (stepKeepsInv s t hs h).errRange⟩⟩
  · obtain ⟨rest, rfl⟩ := step_accepts h hw hb
    simp
  · obtain ⟨a, rest, rfl⟩ := step_resets h hr
    rfl
  · cases commandStep_of_step h with
    | accept v _ event idle _ => exact .inl ⟨v, event, idle⟩
    | commit p rest _ result => simp [result] at hne
    | reset _ _ event _ => exact .inr event
    | countDown _ _ _ _ _ _ same => exact absurd same.errcode hne
    | other _ same => exact absurd same.errcode hne
  · obtain ⟨rest, rfl⟩ := step_commits h hc
    simpa using errcode_of_inFlight hs hc.1

/-- What a step can do to OVR (R26). -/
theorem step_ovr {s t : State} (h : step s = .next t) :
    t.status.ovr = s.status.ovr ∨
      (t.status.ovr = true ∧ s.status.busy = true ∧ ∃ v, NextWrites 0x000 v s) ∨
      (t.status.ovr = false ∧ ((∃ v, v.getLsbD 4 = true ∧ NextWrites 0x004 v s) ∨ NextResets s)) := by
  cases step_cases s t h with
  | cmd v rest event _ =>
    cases hb : s.status.busy with
    | false =>
      obtain ⟨_, rfl⟩ := step_accepts h ⟨rest, event⟩ hb
      exact .inl (issued_ovr _ _)
    | true =>
      obtain ⟨_, rfl⟩ := step_drops h ⟨rest, event⟩ hb
      exact .inr (.inl ⟨rfl, rfl, v, rest, event⟩)
  | status v rest event result =>
    subst result
    cases hv : v.getLsbD 4 with
    | false => exact .inl (by rw [statusWrite_ovr, hv]; simp)
    | true => exact .inr (.inr ⟨by rw [statusWrite_ovr, hv]; simp, .inl ⟨v, hv, rest, event⟩⟩)
  | input off v rest _ _ _ result =>
    obtain ⟨_, _, _, _, rfl⟩ := result
    exact .inl rfl
  | read off rest _ result => exact .inl (result ▸ rfl)
  | reset a rest event result => exact .inr (.inr ⟨result ▸ rfl, .inr ⟨a, rest, event⟩⟩)
  | finish rest _ result => exact .inl (by simp [result])
  | engine rest _ result => exact .inl (by simp [result])

/-- Settles O32. -/
theorem overrunIsStickyAndHarmless : Obligations.OverrunIsStickyAndHarmless := by
  refine ⟨fun v s hb => ?_, fun s t h ho => ⟨fun ht => ?_, ?_⟩, fun s t h ho ht => ?_, fun v b s t hb h => ?_⟩
  · exact (memWrite_regOffset .cmd v s).trans (issueCommand_busy v s hb)
  · obtain he | ⟨he, -⟩ | ⟨-, he⟩ := step_ovr h
    · simp [he, ho] at ht
    · simp [he] at ht
    · exact he
  · rintro (⟨v, hv, hw⟩ | hr)
    · obtain ⟨rest, hs⟩ := step_writes (r := .status) hw
      obtain rfl := Host.Outcome.next.inj (h.symm.trans hs)
      show (statusWrite v s.status).ovr = false
      rw [statusWrite_ovr, hv, Bool.not_true, Bool.and_false]
    · obtain ⟨a, rest, rfl⟩ := step_resets h hr
      rfl
  · obtain he | ⟨-, he⟩ | ⟨he, -⟩ := step_ovr h
    · simp [he, ho] at ht
    · exact he
    · simp [he] at ht
  · obtain rfl := Host.Outcome.next.inj (h.symm.trans (issueCommand_idle v s hb))
    rw [issueCommand_idle v (withOvr b s) hb, issued_withOvr]

/-- Settles O34. -/
theorem cmdReadsBackTheLastAcceptedWord : Obligations.CmdReadsBackTheLastAcceptedWord := by
  refine ⟨rfl, memRead_regOffset .cmd, memWrite_regOffset .cmd, fun v s t h => ?_, fun s t h hne => ?_⟩
  · cases hb : s.status.busy with
    | true => exact Host.Outcome.next.inj (h.symm.trans (issueCommand_busy v s hb)) ▸ rfl
    | false => exact Host.Outcome.next.inj (h.symm.trans (issueCommand_idle v s hb)) ▸ issued_cmd v s
  · cases commandStep_of_step h with
    | accept v rest event idle result => exact .inl ⟨v, event, idle, by simp [result]⟩
    | commit p rest _ result => simp [result] at hne
    | reset a rest event result => exact .inr ⟨event, result ▸ rfl⟩
    | countDown _ _ _ _ _ _ same => exact absurd same.cmd hne
    | other _ same => exact absurd same.cmd hne

theorem memWrite_status (v : Word) (s : State) :
    memWrite 0x004 v s = .next (withOvr (s.status.ovr && !v.getLsbD 4) s) := by
  refine (memWrite_regOffset .status v s).trans ?_
  simp only [writeReg, withOvr, statusWrite]
  cases v.getLsbD 4 <;> simp

theorem statusWord_bits (t : Status) :
    (statusWord t).getLsbD 0 = t.busy ∧ (statusWord t).getLsbD 1 = t.done ∧
      (statusWord t).getLsbD 2 = t.rksValid ∧ (statusWord t).getLsbD 3 = false ∧ (statusWord t).getLsbD 4 = t.ovr := by
  simp only [statusWord, BitVec.getLsbD_append]
  simp

theorem statusWord_fields (t : Status) :
    (statusWord t).extractLsb' 5 3 = 0#3 ∧ (statusWord t).extractLsb' 8 4 = t.errcode ∧
      (statusWord t).extractLsb' 12 20 = 0#20 := by
  refine ⟨?_, ?_, ?_⟩ <;> apply BitVec.eq_of_getLsbD_eq <;> intro i hi <;>
    simp only [statusWord, BitVec.getLsbD_extractLsb', BitVec.getLsbD_append] <;> grind

/-- Settles O35. -/
theorem statusHasItsFieldsAndNoOthers : Obligations.StatusHasItsFieldsAndNoOthers := by
  refine ⟨fun s => ?_, by decide, memWrite_status⟩
  rw [show memRead s 0x004 = statusWord s.status from memRead_regOffset .status s]
  obtain ⟨hbusy, hdone, hvalid, hreserved, hovr⟩ := statusWord_bits s.status
  exact ⟨hbusy, hdone, hvalid, hreserved, hovr, statusWord_fields s.status⟩

/-- Settles O59. -/
theorem pendingIsWrittenByAcceptanceTheEngineAndReset :
    Obligations.PendingIsWrittenByAcceptanceTheEngineAndReset := by
  intro s t h
  refine ⟨fun v hw hb hf => ?_, fun p hc => ?_, fun hr => ?_, fun p rest he hp hl => ?_, fun hne => ?_⟩
  · obtain ⟨rest, rfl⟩ := step_accepts h hw hb
    simp [hf]
  · obtain ⟨rest, rfl⟩ := step_commits h hc
    rfl
  · obtain ⟨a, rest, rfl⟩ := step_resets h hr
    rfl
  · rw [step_cons s _ rest he, runEvent, engineStep_more (takeEvent rest s) p hp (by omega)] at h
    exact Host.Outcome.next.inj h ▸ rfl
  · cases commandStep_of_step h with
    | accept v rest event idle result =>
      refine .inl ⟨v, event, idle, ?_⟩
      by_contra hf
      simp [result, hf] at hne
    | commit p _ event _ => exact .inr (.inl ⟨p, event⟩)
    | reset _ _ event _ => exact .inr (.inr (.inl event))
    | countDown _ rest event _ _ _ _ => exact .inr (.inr (.inr ⟨rest, event⟩))
    | other pend _ => exact absurd pend hne

end Sys2Proof.Proofs

/-! PROOFS. The schedule store and OUT (10_state.md R25, R32 to R34; 42_key_schedule.md R124, R125). -/

namespace Sys2Proof.Proofs
open Sys2Proof.Machine Sys2Proof.Claims

theorem expandTo_succ_getElem (key : Bytes16) (n i : Nat) (hi : i < 44) (h : i ≠ n + 4) :
    (expandTo key (n + 1))[i] = (expandTo key n)[i] := by
  simp only [expandTo]
  split
  · exact Vector.getElem_set_ne _ _ (Ne.symm h)
  · rfl

/-- The words below `n + 4` are final after `n` steps (R125). -/
theorem expandTo_getElem (key : Bytes16) (n m i : Nat) (hi : i < 44) (hn : i < n + 4) (hm : n ≤ m) :
    (expandTo key m)[i] = (expandTo key n)[i] := by
  induction m, hm using Nat.le_induction with
  | base => rfl
  | succ m hm ih => exact (expandTo_succ_getElem key m i hi (by omega)).trans ih

/-- The recurrence on the finished schedule (R124). -/
theorem keyExpansion_recurrence (key : Bytes16) (n : Nat) (h : n < 40) :
    (keyExpansion key)[n + 4] = (keyExpansion key)[n] ^^^ scheduleTemp (n + 4) (keyExpansion key)[n + 3] := by
  unfold keyExpansion
  rw [expandTo_getElem key (n + 1) 40 (n + 4) (by omega) (by omega) (by omega),
    expandTo_getElem key n 40 n (by omega) (by omega) (by omega),
    expandTo_getElem key n 40 (n + 3) (by omega) (by omega) (by omega)]
  simp [expandTo, h, expandWord]

/-- No key expands to the zero store: after four zero words the recurrence gives S-box images and a round constant. -/
theorem keyExpansion_ne_zero (key : Bytes16) : keyExpansion key ≠ .replicate 44 0 := by
  intro h
  have hr := keyExpansion_recurrence key 0 (by decide)
  simp only [h, Vector.getElem_replicate] at hr
  exact absurd hr (by decide)

theorem rksValid_iff {s : State} (h : CoreInvariant s) :
    s.status.rksValid = true ↔ ∃ key, s.rks = keyExpansion key := by
  refine ⟨h.validSchedule, fun ⟨key, hk⟩ => ?_⟩
  by_contra hv
  exact keyExpansion_ne_zero key (hk ▸ h.emptySchedule (by simpa using hv))

/-- What a step can do to RKS_VALID (R25). -/
theorem step_rksValid {s t : State} (h : step s = .next t) :
    t.status.rksValid = s.status.rksValid ∨
      (t.status.rksValid = true ∧ ∃ p, NextCommits s p ∧ p.op = .expandKey) ∨
      (t.status.rksValid = false ∧ NextResets s) := by
  cases commandStep_of_step h with
  | accept v rest _ _ result => exact .inl (by simp [result])
  | commit p rest event result =>
    by_cases ho : p.op = .expandKey
    · exact .inr (.inl ⟨by simp [result, ho], p, event, ho⟩)
    · exact .inl (by simp [result, ho])
  | reset a rest event result => exact .inr (.inr ⟨result ▸ rfl, event⟩)
  | countDown _ _ _ _ _ _ same => exact .inl same.rksValid
  | other _ same => exact .inl same.rksValid

theorem encryptBlock_noSchedule_iff (klen xlen : Nat) (s : State) (hb : s.status.busy = false) :
    (∃ t, exec (.encryptBlock klen 16 xlen) s = .next t ∧ t.status.errcode = 4) ↔ s.status.rksValid = false := by
  rw [exec_eq_issue]
  cases hv : s.status.rksValid with
  | false =>
    have hc : checkOf (.encryptBlock klen 16 xlen) s = some .noSchedule := by simp [checkOf, checkEncryptBlock, hv]
    rw [issue_error _ _ _ _ _ _ hb ((checkOf_acceptWord _ _ s).trans hc)]
    exact iff_of_true ⟨_, rfl, rfl⟩ rfl
  | true =>
    have hc : checkOf (.encryptBlock klen 16 xlen) s = none := by simp [checkOf, checkEncryptBlock, hv]
    rw [issue_start _ _ _ _ _ hb ((checkOf_acceptWord _ _ s).trans hc), startCommand_acceptOf]
    simp [started]

/-- Settles O33: the zero store is no schedule, so under the invariant RKS_VALID is told from RKS. -/
theorem rksValidTellsThatAScheduleWasExpanded : Obligations.RksValidTellsThatAScheduleWasExpanded := by
  refine ⟨rfl, fun s t h => ⟨fun p hc ho => ?_, fun hr => ?_, fun hs ht => ?_, fun hs ht => ?_⟩,
    fun s hs => ⟨rksValid_iff hs, hs.emptySchedule⟩, fun s t hs h => ?_, encryptBlock_noSchedule_iff⟩
  · obtain ⟨rest, rfl⟩ := step_commits h hc
    simp [ho]
  · obtain ⟨a, rest, rfl⟩ := step_resets h hr
    rfl
  · obtain he | ⟨-, he⟩ | ⟨he, -⟩ := step_rksValid h
    · simp [he, hs] at ht
    · exact he
    · simp [he] at ht
  · obtain he | ⟨he, -⟩ | ⟨-, he⟩ := step_rksValid h
    · simp [he, hs] at ht
    · simp [he] at ht
    · exact he
  · have ht := stepKeepsInv s t hs h
    exact ⟨rksValid_iff ht, ht.emptySchedule⟩

/-- Settles O38. -/
theorem scheduleChangesOnlyAtAnExpandCommit : Obligations.ScheduleChangesOnlyAtAnExpandCommit := by
  intro s t h hne
  cases commandStep_of_step h with
  | accept _ _ _ _ result => simp [result] at hne
  | commit p rest event result =>
    by_cases ho : p.op = .expandKey
    · exact .inl ⟨p, event, ho, by simp [result, ho]⟩
    · simp [result, ho] at hne
  | reset _ _ event result => exact .inr ⟨event, result ▸ rfl⟩
  | countDown _ _ _ _ _ _ same => exact absurd same.rks hne
  | other _ same => exact absurd same.rks hne

/-- Settles O37. -/
theorem outHoldsTheLastResult : Obligations.OutHoldsTheLastResult := by
  refine ⟨fun s j v => ⟨memRead_regOffset (.out j) s, memWrite_regOffset (.out j) v s⟩, fun s t p h hc => ?_,
    fun s t h hne => ?_⟩
  · obtain ⟨rest, rfl⟩ := step_commits h hc
    rw [finishCommand_out, applyResult_out]
    cases p.op <;> simp [padOut]
  · cases commandStep_of_step h with
    | accept _ _ _ _ result => simp [result] at hne
    | commit p rest event result =>
      refine .inl ⟨p, event, fun ho => hne ?_⟩
      simp [result, applyResult_out, ho]
    | reset _ _ event _ => exact .inr event
    | countDown _ _ _ _ _ _ same => exact absurd same.out hne
    | other _ same => exact absurd same.out hne

end Sys2Proof.Proofs

/-! PROOFS. The operand banks as byte strings (10_state.md R28 to R32, R39; 20_memory.md R53). -/

namespace Sys2Proof.Proofs
open Sys2Proof.Machine Sys2Proof.Claims

theorem byteAt_eq_wordByte_column (b : Bytes16) (j m : Fin 4) :
    byteAt b ⟨4 * j.val + m.val, by omega⟩ = wordByte (column b j) m := by
  rw [← entry_eq_wordByte_column]
  simp only [entry, Nat.add_comm]

theorem column_bank16 (r : Vector Word 4) (j : Fin 4) : column (bank16 r) j = r[j] := by
  rw [bank16, column_ofColumns]
  fin_cases j <;> rfl

theorem wordAt_bank32 (r : Vector Word 8) (j : Fin 8) : wordAt (bank32 r) j = r[j] := by
  apply BitVec.eq_of_getLsbD_eq
  intro i hi
  fin_cases j <;>
    simp only [wordAt, bank32, BitVec.getLsbD_extractLsb', BitVec.getLsbD_append] <;> simp <;> grind

theorem words32_getElem (v : Bytes32) (j : Fin 8) : (words32 v)[j] = wordAt v j := by
  fin_cases j <;> rfl

/-- The first four words of a 32-byte string are the columns of its first half. -/
theorem wordAt_eq_column_firstHalf (v : Bytes32) (j : Fin 4) :
    wordAt v ⟨j.val, by omega⟩ = column (firstHalf v) j := by
  apply BitVec.eq_of_getLsbD_eq
  intro i hi
  have hb : 96 - 32 * j.val + i < 128 := by omega
  have he : 224 - 32 * j.val + i = 128 + (96 - 32 * j.val + i) := by omega
  simp [wordAt, column, firstHalf, BitVec.getLsbD_extractLsb', hb, he]

/-- The last four words of a 32-byte string are the columns of its second half. -/
theorem wordAt_eq_column_secondHalf (v : Bytes32) (j : Fin 4) :
    wordAt v ⟨4 + j.val, by omega⟩ = column (secondHalf v) j := by
  apply BitVec.eq_of_getLsbD_eq
  intro i hi
  have he : 224 - 32 * (4 + j.val) + i = 96 - 32 * j.val + i := by omega
  simp [wordAt, column, secondHalf, BitVec.getLsbD_extractLsb', he]

theorem byteAt_bank16 (r : Vector Word 4) (j m : Fin 4) :
    byteAt (bank16 r) ⟨4 * j.val + m.val, by omega⟩ = wordByte r[j] m := by
  rw [byteAt_eq_wordByte_column, column_bank16]

theorem byteAt_firstHalf_bank32 (r : Vector Word 8) (j m : Fin 4) :
    byteAt (firstHalf (bank32 r)) ⟨4 * j.val + m.val, by omega⟩ = wordByte r[j.val] m := by
  rw [byteAt_eq_wordByte_column, ← wordAt_eq_column_firstHalf, wordAt_bank32]
  rfl

theorem byteAt_secondHalf_bank32 (r : Vector Word 8) (j m : Fin 4) :
    byteAt (secondHalf (bank32 r)) ⟨4 * j.val + m.val, by omega⟩ = wordByte r[4 + j.val] m := by
  rw [byteAt_eq_wordByte_column, ← wordAt_eq_column_secondHalf, wordAt_bank32]
  rfl

theorem wordByte_words32_first (v : Bytes32) (j m : Fin 4) :
    wordByte (words32 v)[j.val] m = byteAt (firstHalf v) ⟨4 * j.val + m.val, by omega⟩ := by
  rw [byteAt_eq_wordByte_column, ← wordAt_eq_column_firstHalf, ← words32_getElem]
  rfl

theorem wordByte_words32_second (v : Bytes32) (j m : Fin 4) :
    wordByte (words32 v)[4 + j.val] m = byteAt (secondHalf v) ⟨4 * j.val + m.val, by omega⟩ := by
  rw [byteAt_eq_wordByte_column, ← wordAt_eq_column_secondHalf, ← words32_getElem]
  rfl

/-- Settles O60. -/
theorem operandBanksAreByteStrings : Obligations.OperandBanksAreByteStrings :=
  ⟨fun s j m => ⟨byteAt_bank16 s.key j m, byteAt_bank16 s.block j m, byteAt_bank16 s.nonce j m,
      byteAt_firstHalf_bank32 s.ctin j m, byteAt_secondHalf_bank32 s.ctin j m⟩,
    fun v _ j m => ⟨wordByte_words32_first v j m, wordByte_words32_second v j m⟩⟩

/-- Settles O36: of what issuing a command can do, only a start leaves an idle core BUSY. -/
theorem keyIsWriteOnlyAndClearedWhenTaken : Obligations.KeyIsWriteOnlyAndClearedWhenTaken := by
  refine ⟨fun s => byteAt_bank16 s.key, fun s j => memRead_regOffset (.key j) s, fun i s t hb h ht => ?_⟩
  obtain ⟨hb', -⟩ | ⟨-, e, he⟩ | ⟨-, -, -, he⟩ := exec_cases i s
  · simp [hb] at hb'
  · obtain rfl := Host.Outcome.next.inj (h.symm.trans he)
    simp [hb] at ht
  · obtain rfl := Host.Outcome.next.inj (h.symm.trans he)
    refine ⟨fun ho => ?_, fun ho => ?_, _, rfl, rfl⟩
    · simp [startedBy, ho, zeroKey]
    · simp [startedBy, ho]

end Sys2Proof.Proofs

/-! PROOFS. What writes the operand banks, what an access shows of KEY and PEND, and the state after reset
(10_state.md R28 to R31, R36, R40). -/

namespace Sys2Proof.Proofs
open Sys2Proof.Machine Sys2Proof.Claims

/-- What an operand register holds, KEY included, which the host cannot read; 0 for every other register. -/
def operand (s : State) : Reg → Word
  | .key j => s.key[j]
  | .block j => s.block[j]
  | .nonce j => s.nonce[j]
  | .ctin j => s.ctin[j]
  | _ => 0

theorem operand_congr {s t : State} (hk : t.key = s.key) (hb : t.block = s.block) (hn : t.nonce = s.nonce)
    (hc : t.ctin = s.ctin) (r : Reg) : operand t r = operand s r := by
  cases r <;> simp only [operand, hk, hb, hn, hc]

theorem operand_commit (s : State) (r : Reg) : operand (commit s) r = operand s r := by
  cases hp : s.pend with
  | none => rw [commit_none s hp]
  | some p =>
    rw [commit_some s p hp]
    exact operand_congr (by simp) (by simp) (by simp) (by simp) r

theorem operand_engineStep (s : State) (r : Reg) : operand (engineStep s) r = operand s r := by
  obtain h | ⟨q, h⟩ := engineStep_cases s
  · rw [h, operand_commit]
  · rw [h]
    exact operand_congr rfl rfl rfl rfl r

/-- A write of any register but CMD changes no operand but its own register, to the value written (R58). -/
theorem writeReg_operand {v : Word} {s t : State} {r q : Reg} (hq : q ≠ .cmd) (h : writeReg v s q = .next t)
    (hne : operand t r ≠ operand s r) : q = r ∧ operand t r = v := by
  cases q with
  | cmd => exact absurd rfl hq
  | status | out | rkw =>
    obtain rfl := Host.Outcome.next.inj h
    exact absurd (operand_congr rfl rfl rfl rfl r) hne
  | key j | block j | nonce j | ctin j =>
    obtain rfl := Host.Outcome.next.inj h
    cases r <;> simp_all [operand, Vector.getElem_set, Fin.ext_iff]

/-- The only operand a command issue changes is KEY, where a passing command takes it (R28). -/
theorem issued_operand {v : Word} {s : State} {r : Reg} (hne : operand (issued v s) r ≠ operand s r) :
    (∃ j, r = .key j) ∧ (issued v s).key = zeroKey ∧ firstError v s.status.rksValid = none ∧
      opOfWord v ≠ .encryptBlock := by
  cases r with
  | key j =>
    by_cases hf : firstError v s.status.rksValid = none ∧ opOfWord v ≠ .encryptBlock
    · exact ⟨⟨j, rfl⟩, by simp [hf], hf⟩
    · simp [operand, hf] at hne
  | _ => simp [operand] at hne

/-- Everything that changes an operand register. -/
theorem step_operand {s t : State} {r : Reg} (h : step s = .next t) (hne : operand t r ≠ operand s r) :
    NextWrites (regOffset r) (operand t r) s ∨ NextResets s ∨
      ((∃ j, r = .key j) ∧ t.key = zeroKey ∧ s.status.busy = false ∧
        ∃ v, NextWrites 0x000 v s ∧ firstError v s.status.rksValid = none ∧ opOfWord v ≠ .encryptBlock) := by
  cases step_cases s t h with
  | cmd v rest event _ =>
    cases hb : s.status.busy with
    | false =>
      obtain ⟨rest', rfl⟩ := step_accepts h ⟨rest, event⟩ hb
      obtain ⟨hr, hk, hf, ho⟩ := issued_operand (s := takeEvent rest' s) hne
      exact .inr (.inr ⟨hr, hk, rfl, v, ⟨rest, event⟩, hf, ho⟩)
    | true =>
      obtain ⟨_, rfl⟩ := step_drops h ⟨rest, event⟩ hb
      exact absurd (operand_congr rfl rfl rfl rfl r) hne
  | status v rest _ result =>
    subst result
    exact absurd (operand_congr rfl rfl rfl rfl r) hne
  | read off rest _ result =>
    subst result
    exact absurd (operand_congr rfl rfl rfl rfl r) hne
  | reset a rest event _ => exact .inr (.inl ⟨a, rest, event⟩)
  | finish rest _ result => exact absurd (result ▸ operand_commit (takeEvent rest s) r) hne
  | engine rest _ result => exact absurd (result ▸ operand_engineStep (takeEvent rest s) r) hne
  | input off v rest event notCmd _ _ =>
    rw [step_cons s _ rest event] at h
    obtain ⟨-, h4, -, hm⟩ := runAccess_write_next off 4 v (takeEvent rest s) t h
    unfold memWrite at hm
    cases hq : regAt off with
    | none =>
      rw [hq] at hm
      obtain rfl := Host.Outcome.next.inj hm
      exact absurd (operand_congr rfl rfl rfl rfl r) hne
    | some q =>
      rw [hq] at hm
      obtain ⟨rfl, hv⟩ := writeReg_operand (fun hc => notCmd ((regAt_cmd_status off).1 (hc ▸ hq))) hm hne
      exact .inl ⟨rest, by rw [event, regOffset_of_regAt h4 hq, hv]⟩

/-- Settles O58: the changes by `step_operand`, the writes that land by `step_writes`. -/
theorem inputRegistersAreWrittenByTheHostAlone : Obligations.InputRegistersAreWrittenByTheHostAlone := by
  refine ⟨fun s t h => ⟨fun j => ⟨fun hne => ?_, fun hne => ?_, fun hne => ?_⟩, fun j hne => ?_, fun hr => ?_⟩,
    fun s v => ⟨fun j => ⟨fun hw => ?_, fun hw => ?_, fun hw => ?_⟩, fun j hw => ?_⟩⟩
  · simpa [regOffset, operand] using step_operand (r := .block j) h hne
  · simpa [regOffset, operand] using step_operand (r := .nonce j) h hne
  · simpa [regOffset, operand] using step_operand (r := .key j) h hne
  · simpa [regOffset, operand] using step_operand (r := .ctin j) h hne
  · obtain ⟨a, rest, rfl⟩ := step_resets h hr
    exact ⟨rfl, rfl, rfl, rfl⟩
  · obtain ⟨rest, hs⟩ := step_writes (r := .key j) hw
    exact ⟨_, hs, rfl⟩
  · obtain ⟨rest, hs⟩ := step_writes (r := .block j) hw
    exact ⟨_, hs, rfl⟩
  · obtain ⟨rest, hs⟩ := step_writes (r := .nonce j) hw
    exact ⟨_, hs, rfl⟩
  · obtain ⟨rest, hs⟩ := step_writes (r := .ctin j) hw
    exact ⟨_, hs, rfl⟩

/-- No read shows KEY or PEND (R28, R36). -/
theorem memRead_hides (s : State) (key : Vector Word 4) (pend : Option Pending) (off : Nat) :
    memRead { s with key := key, pend := pend } off = memRead s off := by
  unfold memRead
  cases regAt off with
  | none => rfl
  | some r => cases r <;> rfl

/-- No write of any register but CMD carries KEY or PEND to another field. -/
theorem writeReg_hides {v : Word} {s t : State} {r : Reg} (key : Vector Word 4) (pend : Option Pending)
    (hr : r ≠ .cmd) (h : writeReg v s r = .next t) :
    ∃ key', writeReg v { s with key := key, pend := pend } r = .next { t with key := key', pend := pend } := by
  cases r with
  | cmd => exact absurd rfl hr
  | _ =>
    obtain rfl := Host.Outcome.next.inj h
    exact ⟨_, rfl⟩

/-- Settles O44. -/
theorem onlyACmdWriteTellsKeyOrPendingApart : Obligations.OnlyACmdWriteTellsKeyOrPendingApart := by
  intro a s t key pend ha h
  cases a with
  | read off bytes =>
    obtain ⟨rfl, h4, hw, rfl⟩ := runAccess_read_next off bytes s t h
    exact ⟨key, by rw [runAccess_read _ _ h4 hw, memRead_hides]⟩
  | write off bytes v =>
    obtain ⟨rfl, h4, hw, hm⟩ := runAccess_write_next off bytes v s t h
    rw [runAccess_write _ _ _ h4 hw]
    unfold memWrite at hm ⊢
    cases hr : regAt off with
    | none =>
      rw [hr] at hm
      obtain rfl := Host.Outcome.next.inj hm
      exact ⟨key, rfl⟩
    | some r =>
      rw [hr] at hm
      refine writeReg_hides key pend (fun hc => ?_) hm
      obtain rfl := (regAt_cmd_status off).1 (hc ▸ hr)
      exact ha 4 v rfl

/-- Settles O51. -/
theorem resetLeavesEveryRegisterZero : Obligations.ResetLeavesEveryRegisterZero := by
  refine ⟨fun r => ?_, rfl, rfl, rfl, fun s rest he => step_cons s _ rest he⟩
  cases r with
  | cmd | status | key => rfl
  | block | nonce | ctin | out | rkw => exact Vector.getElem_replicate _

end Sys2Proof.Proofs

/-! PROOFS. What host reads and writes do at every offset, and what a step does with each kind of event (20_memory.md
R52 to R59; 30_encoding.md R78, R81; 70_reset_and_hazards.md R230). -/

namespace Sys2Proof.Proofs
open Sys2Proof.Machine Sys2Proof.Claims

theorem regAt_eq_none {off : Nat} (h4 : off % 4 = 0) (hr : ∀ r, regOffset r ≠ off) : regAt off = none :=
  Option.eq_none_iff_forall_ne_some.2 fun r h => hr r (regOffset_of_regAt h4 h)

theorem memRead_reserved {off : Nat} (s : State) (h : regAt off = none) : memRead s off = 0 := by
  simp [memRead, h]

theorem memWrite_reserved {off : Nat} (v : Word) (s : State) (h : regAt off = none) : memWrite off v s = .next s := by
  simp [memWrite, h]

/-- What the bus drives is no register (R57). -/
theorem memRead_rdata (s : State) (off : Nat) (r : Option Word) : memRead { s with rdata := r } off = memRead s off :=
  (memRead_takeEvent s.todo { s with rdata := r } off).symm.trans (memRead_takeEvent s.todo s off)

/-- STATUS as R57 writes it: its fields shifted to their places. -/
theorem statusWord_eq_or (t : Status) :
    statusWord t =
      ((t.errcode.setWidth 32 <<< 8) ||| ((BitVec.ofBool t.ovr).setWidth 32 <<< 4) |||
        ((BitVec.ofBool t.rksValid).setWidth 32 <<< 2) ||| ((BitVec.ofBool t.done).setWidth 32 <<< 1) |||
        (BitVec.ofBool t.busy).setWidth 32) := by
  apply BitVec.eq_of_getLsbD_eq
  intro i hi
  simp only [statusWord, BitVec.getLsbD_append, BitVec.getLsbD_or, BitVec.getLsbD_shiftLeft, BitVec.getLsbD_setWidth,
    BitVec.getLsbD_ofBool]
  interval_cases i <;> simp

/-- Settles O39: a register's offset reads the register, and any other aligned offset reads 0. -/
theorem hostReadsFollowTheTable : Obligations.HostReadsFollowTheTable := by
  refine ⟨fun s => ⟨?_, ?_, fun j => ⟨?_, ?_, ?_⟩, fun j => ⟨?_, ?_⟩, fun i => ?_, fun off h4 hr => ?_⟩,
    fun s off h4 hw => runAccess_read off s h4 hw, memRead_rdata⟩
  · exact memRead_regOffset .cmd s
  · exact (memRead_regOffset .status s).trans (statusWord_eq_or s.status)
  · exact memRead_regOffset (.key j) s
  · exact memRead_regOffset (.block j) s
  · exact memRead_regOffset (.nonce j) s
  · exact memRead_regOffset (.ctin j) s
  · exact memRead_regOffset (.out j) s
  · exact memRead_regOffset (.rkw i) s
  · exact memRead_reserved s (regAt_eq_none h4 hr)

/-- OVR cleared under a condition is a conditional clearing of OVR. -/
theorem withOvr_and_not (b : Bool) (s : State) :
    withOvr (s.status.ovr && !b) s = if b then withOvr false s else s := by
  cases b <;> simp [withOvr]

theorem statusWrite_statusWrite (v : Word) (t : Status) : statusWrite v (statusWrite v t) = statusWrite v t := by
  unfold statusWrite
  split <;> rfl

/-- A write of any register but CMD leaves the command in flight, and writing the same value again changes nothing
more (R58). -/
theorem writeReg_idempotent {v : Word} {s t : State} {r : Reg} (hr : r ≠ .cmd) (h : writeReg v s r = .next t) :
    t.pend = s.pend ∧ writeReg v t r = .next t := by
  cases r with
  | cmd => exact absurd rfl hr
  | status =>
    obtain rfl := Host.Outcome.next.inj h
    exact ⟨rfl, by simp only [writeReg, statusWrite_statusWrite]⟩
  | key j | block j | nonce j | ctin j =>
    obtain rfl := Host.Outcome.next.inj h
    exact ⟨rfl, by simp only [writeReg, Vector.set_set]⟩
  | out | rkw =>
    obtain rfl := Host.Outcome.next.inj h
    exact ⟨rfl, rfl⟩

theorem memWrite_idempotent {off : Nat} {v : Word} {s t : State} (h0 : off ≠ 0x000) (h : memWrite off v s = .next t) :
    t.pend = s.pend ∧ memWrite off v t = .next t := by
  unfold memWrite at h ⊢
  cases hr : regAt off with
  | none =>
    rw [hr] at h
    obtain rfl := Host.Outcome.next.inj h
    exact ⟨rfl, rfl⟩
  | some r =>
    rw [hr] at h
    exact writeReg_idempotent (fun hc => h0 ((regAt_cmd_status off).1 (hc ▸ hr))) h

/-- A command that passes its checks on an idle core with OVR clear: the same word again is dropped, and sets OVR
(R26, R58). -/
theorem memWrite_cmd_again {v : Word} {s : State} (idle : s.status.busy = false) (hovr : s.status.ovr = false)
    (hf : firstError v s.status.rksValid = none) :
    memWrite 0x000 v s = .next (issued v s) ∧ memWrite 0x000 v (issued v s) ≠ .next (issued v s) := by
  have hbusy : (issued v s).status.busy = true := by simp [hf]
  refine ⟨(memWrite_regOffset .cmd v s).trans (issueCommand_idle v s idle), fun h => ?_⟩
  have hdrop : memWrite 0x000 v (issued v s) = .next (dropCommand (issued v s)) :=
    (memWrite_regOffset .cmd v _).trans (issueCommand_busy v _ hbusy)
  have hsame : dropCommand (issued v s) = issued v s := Host.Outcome.next.inj (hdrop.symm.trans h)
  simpa [hovr] using congrArg (fun t => t.status.ovr) hsame

/-- Settles O40: a register's offset writes the register; EXPAND_KEY written twice after reset shows that a CMD write
is not idempotent. -/
theorem hostWritesFollowTheTable : Obligations.HostWritesFollowTheTable := by
  refine ⟨fun v s => ⟨?_, ?_, fun j => ⟨?_, ?_, ?_⟩, fun j => ⟨?_, ?_⟩, fun i => ?_, fun off h4 hr => ?_⟩,
    fun s off v h4 hw => runAccess_write off v s h4 hw, fun v s t off h0 h => memWrite_idempotent h0 h,
    0x00001001#32, .reset, _, memWrite_cmd_again rfl rfl (by decide)⟩
  · exact memWrite_regOffset .cmd v s
  · exact (memWrite_status v s).trans (congrArg _ (withOvr_and_not _ s))
  · exact memWrite_regOffset (.key j) v s
  · exact memWrite_regOffset (.block j) v s
  · exact memWrite_regOffset (.nonce j) v s
  · exact memWrite_regOffset (.ctin j) v s
  · exact memWrite_regOffset (.out j) v s
  · exact memWrite_regOffset (.rkw i) v s
  · exact memWrite_reserved v s (regAt_eq_none h4 hr)

/-- Each length of a decoded command comes from a field of 6 bits (R70). -/
theorem wellFormed_of_decode {v : Word} {i : Instr} (h : decode v = .ok i) : i.wellFormed = true := by
  have hfit : lengthsFit (klenField v) (blenField v) (xlenField v) = true := by
    simp only [lengthsFit, klenField_eq, blenField_eq, xlenField_eq, Bool.and_eq_true, decide_eq_true_eq]
    omega
  obtain ⟨-, hi⟩ := decode_ok h
  rcases hi with ⟨-, rfl⟩ | ⟨-, rfl⟩ | ⟨-, rfl⟩ | ⟨-, rfl⟩ <;> exact hfit

theorem step_cmdWrite {s : State} {v : Word} {rest : List Event} (he : s.todo = .access (.write 0x000 4 v) :: rest) :
    step s = issueCommand v (takeEvent rest s) := by
  rw [step_cons s _ rest he, runEvent, runAccess_write 0x000 v _ rfl (by decide)]
  exact memWrite_regOffset .cmd v _

theorem issueCommand_legal {v : Word} {i : Instr} (h : decode v = .ok i) (s : State) : issueCommand v s = exec i s := by
  simp [issueCommand, h]

theorem issueCommand_illegal {v : Word} {e : DecodeError} (h : decode v = .error e) (s : State) :
    issueCommand v s = issueIllegal v s := by
  simp [issueCommand, h]

theorem decode_of_decodeTableWord {n w : Nat} {i : Instr} (h : decodeTableWord n w = some i) :
    decode (tableWord n w) = .ok i := by
  unfold decodeTableWord at h
  split at h <;> simp_all

/-- Settles O25: a step at a CMD write is the issue of its word, and a fetched table word is such a write. -/
theorem stepRunsTheDecodedCommand : Obligations.StepRunsTheDecodedCommand :=
  ⟨fun _ _ _ _ he hd => ⟨wellFormed_of_decode hd, (step_cmdWrite he).trans (issueCommand_legal hd _)⟩,
    fun _ _ _ _ he hd => (step_cmdWrite he).trans (issueCommand_illegal hd _),
    fun s w _ _ hd =>
      (step_cmdWrite (s := s.withFetchWord 32 w) rfl).trans (issueCommand_legal (decode_of_decodeTableWord hd) _)⟩

/-- No register has a reserved offset (R55, R56). -/
theorem regOffset_ne_reserved {off : Nat}
    (h : off = 0x008 ∨ off = 0x00C ∨ (0x080 ≤ off ∧ off ≤ 0x0FC) ∨ (0x1B0 ≤ off ∧ off ≤ 0x3FC)) (r : Reg) :
    regOffset r ≠ off := by
  cases r <;> simp only [regOffset] <;> omega

/-- Settles O41: a reserved offset is of no register, so `regAt` answers none there. -/
theorem reservedOffsetsReadZeroAndIgnoreWrites : Obligations.ReservedOffsetsReadZeroAndIgnoreWrites := by
  intro off v s h4 h
  have hnone : regAt off = none := regAt_eq_none h4 (regOffset_ne_reserved h)
  have hw : off < windowBytes := by unfold windowBytes; omega
  rw [runAccess_read off s h4 hw, runAccess_write off v s h4 hw, memRead_reserved s hnone, memWrite_reserved v s hnone]
  exact ⟨rfl, rfl⟩

theorem issueCommand_next (v : Word) (s : State) : ∃ t, issueCommand v s = .next t := by
  cases hb : s.status.busy with
  | true => exact ⟨_, issueCommand_busy v s hb⟩
  | false => exact ⟨_, issueCommand_idle v s hb⟩

theorem memWrite_next (off : Nat) (v : Word) (s : State) : ∃ t, memWrite off v s = .next t := by
  unfold memWrite
  cases regAt off with
  | none => exact ⟨_, rfl⟩
  | some r =>
    cases r with
    | cmd => exact issueCommand_next v s
    | _ => exact ⟨_, rfl⟩

theorem runAccess_misfit {a : Access} (s : State) (h : (accessPlace a).2 ≠ 4 ∨ (accessPlace a).1 % 4 ≠ 0) :
    runAccess a s = .refused .accessNotExpressible := by
  refine runAccess_refused a s (Bool.eq_false_iff.2 fun he => ?_)
  obtain ⟨hsize, halign, -⟩ := (accessExpressible_iff a).1 he
  exact h.elim (· hsize) (· halign)

/-- Settles O42: the interface cannot express a misfitting access, and no read or write of a register stops. -/
theorem onlyWholeAlignedRegistersAreAccessed : Obligations.OnlyWholeAlignedRegistersAreAccessed := by
  refine ⟨fun off bytes v s h => ⟨runAccess_misfit s h, runAccess_misfit s h⟩,
    fun off v s h4 hw => ⟨⟨_, runAccess_read off s h4 hw⟩, ?_⟩⟩
  rw [runAccess_write off v s h4 hw]
  exact memWrite_next off v s

/-- Settles O57. -/
theorem stepRunsTheNextEvent : Obligations.StepRunsTheNextEvent := fun s rest =>
  ⟨rfl, fun _ he => step_cons s _ rest he, fun he => step_cons s _ rest he, fun he => step_cons s _ rest he,
    fun _ he => step_cons s _ rest he, step_nil s⟩

end Sys2Proof.Proofs

/-! PROOFS. The command word read back from its fields, and which words are illegal (30_encoding.md R70 to R76). -/

namespace Sys2Proof.Proofs
open Sys2Proof.Machine Sys2Proof.Claims
open Sys2Proof.Laws.ReservedBitsZero (pack_reserved pack_op)

section
variable (op : BitVec 4) (klen blen xlen : Nat)

theorem packWord_lengths :
    (packWord op klen blen xlen).extractLsb' 8 6 = BitVec.ofNat 6 klen ∧
      (packWord op klen blen xlen).extractLsb' 16 6 = BitVec.ofNat 6 blen ∧
      (packWord op klen blen xlen).extractLsb' 24 6 = BitVec.ofNat 6 xlen := by
  refine ⟨?_, ?_, ?_⟩ <;> apply BitVec.eq_of_getLsbD_eq <;> intro i hi <;>
    simp only [packWord, BitVec.getLsbD_extractLsb', BitVec.getLsbD_append] <;> grind

theorem klenField_packWord : klenField (packWord op klen blen xlen) = klen % 64 := by
  simp [klenField, packWord_lengths]

theorem blenField_packWord : blenField (packWord op klen blen xlen) = blen % 64 := by
  simp [blenField, packWord_lengths]

theorem xlenField_packWord : xlenField (packWord op klen blen xlen) = xlen % 64 := by
  simp [xlenField, packWord_lengths]

end

theorem lengthsFit_iff {klen blen xlen : Nat} :
    lengthsFit klen blen xlen = true ↔ klen < 64 ∧ blen < 64 ∧ xlen < 64 := by
  simp [lengthsFit, and_assoc]

/-- What a packed word decodes to, by its opcode: a length that fits its 6-bit field is read back whole. -/
theorem decode_packWord (op : BitVec 4) {klen blen xlen : Nat} (h : lengthsFit klen blen xlen = true) :
    decode (packWord op klen blen xlen) =
      if op = 0x1 then .ok (.expandKey klen blen xlen)
      else if op = 0x2 then .ok (.encryptBlock klen blen xlen)
      else if op = 0x3 then .ok (.randEncrypt klen blen xlen)
      else if op = 0x4 then .ok (.randDecrypt klen blen xlen)
      else .error .reservedOp := by
  obtain ⟨hk, hb, hx⟩ := lengthsFit_iff.1 h
  simp only [decode, pack_reserved, pack_op, klenField_packWord, blenField_packWord, xlenField_packWord,
    Nat.mod_eq_of_lt, hk, hb, hx, ne_eq, not_true_eq_false, if_false]

theorem decode_encode {i : Instr} (h : i.wellFormed = true) : decode (encode i) = .ok i := by
  cases i <;> exact (decode_packWord _ h).trans rfl

/-- Settles O14: a packed word is read back field by field, and a legal word is packed from its fields. -/
theorem decodeInvertsEncode : Obligations.DecodeInvertsEncode :=
  ⟨fun _ h => decode_encode h, fun _ _ h => ⟨wellFormed_of_decode h, encode_of_decode h⟩⟩

/-- Settles O18. -/
theorem execIsTheIssueOfItsWord : Obligations.ExecIsTheIssueOfItsWord :=
  fun _ s h => (issueCommand_legal (decode_encode h) s).symm

/-- Settles O15. -/
theorem specWordsDecodeAsListed : Obligations.SpecWordsDecodeAsListed :=
  ⟨rfl, rfl, rfl, rfl, rfl, rfl, rfl, rfl, rfl, rfl⟩

/-- Settles O55. -/
theorem mnemonicsAssembleToTheirWords : Obligations.MnemonicsAssembleToTheirWords :=
  ⟨rfl, rfl, rfl, rfl, rfl, rfl⟩

/-- The words the decoder rejects (R75). -/
theorem decode_error_iff (v : Word) :
    (∃ e, decode v = .error e) ↔ (v &&& 0xC0C0C0F0#32 ≠ 0 ∨ v.toNat % 16 = 0 ∨ 5 ≤ v.toNat % 16) := by
  rw [show 0xC0C0C0F0#32 = reservedMask from rfl]
  constructor
  · rintro ⟨e, he⟩
    simp only [decode, opField_eq_iff] at he
    grind
  · intro h
    cases hd : decode v with
    | error e => exact ⟨e, rfl⟩
    | ok i =>
      obtain ⟨hr, hi⟩ := decode_ok hd
      simp only [opField_eq_iff] at hi
      grind

/-- Settles O16: in an idle core an illegal word is accepted and raises IllegalCommand. -/
theorem illegalWordsFailWithIllegalCommand : Obligations.IllegalWordsFailWithIllegalCommand := by
  refine ⟨decode_error_iff, fun v s ⟨e, he⟩ hb => ?_⟩
  rw [issueCommand_illegal he, issueIllegal, hb]
  rfl

end Sys2Proof.Proofs

/-! PROOFS. What issuing a command does, by its check (30_encoding.md R76 to R79; 60_exceptions.md R201, R203). -/

namespace Sys2Proof.Proofs
open Sys2Proof.Machine Sys2Proof.Claims

section
variable {i : Instr} {s : State}

theorem exec_busy (h : s.status.busy = true) : exec i s = .next (dropCommand s) :=
  (exec_eq_issue i s).trans (issue_busy _ _ _ _ s h)

theorem exec_error {e : ErrorCode} (h : s.status.busy = false) (hc : checkOf i s = some e) :
    exec i s = .next (failed (errorNumber e) (encode i) s) := by
  rw [exec_eq_issue, issue_error _ _ _ _ s e h ((checkOf_acceptWord i _ s).trans hc), raiseError_acceptWord e _ s h]

theorem exec_start (h : s.status.busy = false) (hc : checkOf i s = none) :
    exec i s = .next (started (opOf i) (encode i) (if opOf i = .encryptBlock then s.key else zeroKey) s) := by
  rw [exec_eq_issue, issue_start _ _ _ _ s h ((checkOf_acceptWord i _ s).trans hc), startCommand_acceptOf]

end

/-- Settles O19. -/
theorem issueCommandFollowsTheErrorTable : Obligations.IssueCommandFollowsTheErrorTable := by
  intro v s
  cases hb : s.status.busy with
  | true => exact issueCommand_busy v s hb
  | false => exact issueCommand_idle v s hb

/-- Two commands of one operation with one check differ, issued in the same idle core, in the word recorded alone. -/
theorem exec_eq_of_check_eq {i j : Instr} {s t : State} (hop : opOf j = opOf i) (hcheck : checkOf j s = checkOf i s)
    (hb : s.status.busy = false) (h : exec i s = .next t) :
    exec j s =
      .next { t with
        cmd := encode j,
        pend := if t.status.busy then t.pend.map fun p => { p with word := encode j } else t.pend } := by
  cases hc : checkOf i s with
  | some e =>
    obtain rfl := Host.Outcome.next.inj (h.symm.trans (exec_error hb hc))
    exact exec_error hb (hcheck.trans hc)
  | none =>
    obtain rfl := Host.Outcome.next.inj (h.symm.trans (exec_start hb hc))
    rw [exec_start hb (hcheck.trans hc), hop]
    rfl

/-- Settles O17: no check reads the lengths in which the two commands differ. -/
theorem unreadLengthsHaveNoEffect : Obligations.UnreadLengthsHaveNoEffect := by
  refine ⟨fun i j s t hij hb h => ?_, rfl⟩
  obtain ⟨k, b, x, b', x', rfl, rfl⟩ | ⟨k, b, x, k', x', rfl, rfl⟩ | ⟨k, b, x, b', rfl, rfl⟩ := hij <;>
    exact exec_eq_of_check_eq (by rfl) (by rfl) hb h

/-- What the host reads at an offset of neither CMD nor STATUS depends on the readable banks and RKS alone (R57). -/
theorem memRead_congr {s t : State} (hb : t.block = s.block) (hn : t.nonce = s.nonce) (hc : t.ctin = s.ctin)
    (ho : t.out = s.out) (hw : t.rks = s.rks) :
    ∀ off, off ≠ 0x000 → off ≠ 0x004 → memRead t off = memRead s off := by
  intro off h0 h4
  obtain ⟨hcmd, hstatus⟩ := regAt_cmd_status off
  unfold memRead
  cases hr : regAt off with
  | none => rfl
  | some r =>
    cases r with
    | cmd => exact absurd (hcmd hr) h0
    | status => exact absurd (hstatus hr) h4
    | key | block | nonce | ctin | out | rkw => simp only [readReg, hb, hn, hc, ho, hw]

/-- Settles O24: a drop writes OVR, a failure CMD and STATUS, a start also KEY and PEND. -/
theorem commandIssueFrame : Obligations.CommandIssueFrame := by
  intro i s t h
  cases hb : s.status.busy with
  | true =>
    obtain rfl := Host.Outcome.next.inj (h.symm.trans (exec_busy hb))
    exact ⟨rfl, rfl, rfl, rfl, rfl, rfl, nofun, .inl rfl, fun _ => ⟨rfl, rfl⟩, rfl, rfl,
      memRead_congr rfl rfl rfl rfl rfl⟩
  | false =>
    cases hc : checkOf i s with
    | some e =>
      obtain rfl := Host.Outcome.next.inj (h.symm.trans (exec_error hb hc))
      exact ⟨rfl, rfl, rfl, rfl, rfl, rfl, fun _ => rfl, .inl rfl, nofun, rfl, rfl,
        memRead_congr rfl rfl rfl rfl rfl⟩
    | none =>
      obtain rfl := Host.Outcome.next.inj (h.symm.trans (exec_start hb hc))
      refine ⟨rfl, rfl, rfl, rfl, rfl, rfl, fun _ => rfl, ?_, nofun, rfl, rfl,
        memRead_congr rfl rfl rfl rfl rfl⟩
      by_cases hop : opOf i = .encryptBlock
      · exact .inl (if_pos hop)
      · exact .inr ⟨if_neg hop, hop, rfl⟩

end Sys2Proof.Proofs

/-! PROOFS. The engine: engine steps down to the commit, the timeless step, and polling (30_encoding.md R81, R82,
R84). -/

namespace Sys2Proof.Proofs
open Sys2Proof.Machine Sys2Proof.Claims

/-- Settles O26. -/
theorem idleCoreHolds : Obligations.IdleCoreHolds := by
  intro s hp he
  rw [step_nil s he, commit_none (takeEvent [] s) hp, takeEvent, ← he]

/-- Settles O28, by the operation in flight. -/
theorem commitWritesTheResults : Obligations.CommitWritesTheResults := by
  intro s p hp
  rw [commit_some s p hp, applyResult]
  cases p.op <;> rfl

@[simp] theorem commit_pend (s : State) : (commit s).pend = none := by
  cases hp : s.pend with
  | none => rw [commit_none s hp, hp]
  | some p => rw [commit_some s p hp, finishCommand_pend]

/-- The commit does not read how many steps were left (R82). -/
theorem commit_withLeft {s : State} {p : Pending} (hp : s.pend = some p) (n : Nat) :
    commit { s with pend := some { p with left := n } } = commit s := by
  rw [commit_some s p hp, commit_some _ { p with left := n } rfl]
  obtain ⟨op, word, snap, left⟩ := p
  cases op <;> rfl

theorem engineSteps_succ (n : Nat) (s : State) : engineSteps (n + 1) s = engineStep (engineSteps n s) := by
  induction n generalizing s with
  | zero => rfl
  | succ n ih => exact ih (engineStep s)

theorem engineSteps_none {s : State} (h : s.pend = none) (n : Nat) : engineSteps n s = s := by
  induction n with
  | zero => rfl
  | succ n ih => rw [engineSteps_succ, ih, engineStep_none s h]

section
variable {s : State} {p : Pending} (hp : s.pend = some p)
include hp

/-- Before the last step only the count goes down (R81). -/
theorem engineSteps_of_lt {n : Nat} (h : n < p.left) :
    engineSteps n s = { s with pend := some { p with left := p.left - n } } := by
  induction n with
  | zero => simp [engineSteps, ← hp]
  | succ n ih =>
    rw [engineSteps_succ, ih (by omega), engineStep_more _ _ rfl (by show p.left - n ≠ 1; omega)]
    rfl

theorem engineSteps_left (h : 1 ≤ p.left) : engineSteps p.left s = commit s := by
  obtain ⟨n, hn⟩ : ∃ n, p.left = n + 1 := ⟨p.left - 1, by omega⟩
  rw [hn, engineSteps_succ, engineSteps_of_lt hp (by omega), engineStep_last _ _ rfl (by show p.left - n = 1; omega),
    commit_withLeft hp]

theorem engineSteps_of_le (h : 1 ≤ p.left) {n : Nat} (hn : p.left ≤ n) : engineSteps n s = commit s := by
  induction n, hn using Nat.le_induction with
  | base => exact engineSteps_left hp h
  | succ n _ ih => rw [engineSteps_succ, ih, engineStep_none _ (commit_pend s)]

theorem commit_busy_done : (commit s).status.busy = false ∧ (commit s).status.done = true := by
  rw [commit_some s p hp]
  exact ⟨rfl, rfl⟩

end

/-- Settles O27. -/
theorem engineStepsCountDownToTheCommit : Obligations.EngineStepsCountDownToTheCommit := by
  refine ⟨fun s hp => ⟨engineStep_none s hp, commit_none s hp⟩, fun s p hp _ => ?_, fun s p => engineSteps_left⟩
  split
  case isTrue hl => exact engineStep_last s p hp hl
  case isFalse hl => exact engineStep_more s p hp hl

/-- Settles O47: before the last step BUSY and DONE are those the invariant gives, and the commit is never left again. -/
theorem acceptedCommandsComplete : Obligations.AcceptedCommandsComplete := by
  intro s p n hs hp
  have hbusy : s.status.busy = true := by rw [← hs.pendBusy, hp]; rfl
  refine ⟨fun h => ?_, fun h => ?_⟩
  · rw [engineSteps_of_lt hp h]
    exact ⟨hbusy, hs.busyNotDone hbusy⟩
  · rw [engineSteps_of_le hp (hs.pending p hp).pos h]
    exact ⟨rfl, commit_busy_done hp⟩

/-- The engine neither reads nor writes the host's side of the bus (R81, R82). -/
theorem commit_takeEvent (l : List Event) (s : State) : commit (takeEvent l s) = takeEvent l (commit s) := by
  cases hp : s.pend with
  | none => rw [commit_none s hp, commit_none (takeEvent l s) hp]
  | some p =>
    rw [commit_some s p hp, commit_some (takeEvent l s) p hp, applyResult, applyResult]
    cases p.op <;> rfl

theorem engineStep_takeEvent (l : List Event) (s : State) : engineStep (takeEvent l s) = takeEvent l (engineStep s) := by
  cases hp : s.pend with
  | none => rw [engineStep_none s hp, engineStep_none (takeEvent l s) hp]
  | some p =>
    by_cases hl : p.left = 1
    · rw [engineStep_last s p hp hl, engineStep_last (takeEvent l s) p hp hl, commit_takeEvent]
    · rw [engineStep_more s p hp hl, engineStep_more (takeEvent l s) p hp hl]
      rfl

/-- A run does not read what the bus drove before it. -/
theorem run_todo_eq_takeEvent (k : Nat) (l : List Event) (s : State) :
    Host.Core.run core (k + 1) { s with todo := l } = Host.Core.run core (k + 1) (takeEvent l s) := by
  cases l <;> rfl

/-- The state after a read of STATUS with `rest` to come. -/
def statusRead (rest : List Event) (s : State) : State :=
  { takeEvent rest s with rdata := some (statusWord s.status) }

theorem step_statusRead (rest : List Event) (s : State) :
    step (takeEvent (rdEvent .status :: rest) s) = .next (statusRead rest s) :=
  (step_cons _ (rdEvent .status) rest rfl).trans (runAccess_read 0x004 _ rfl (by decide))

theorem step_engineStep_of_statusRead (rest : List Event) (s : State) :
    step (statusRead (.engineStep :: rest) s) = .next (takeEvent rest (engineStep s)) := by
  rw [step_cons _ .engineStep rest rfl, runEvent, ← engineStep_takeEvent]
  rfl

/-- `n` rounds of a read of STATUS and an engine step are `n` engine steps. -/
theorem run_pollRounds (n k : Nat) (rest : List Event) (s : State) :
    Host.Core.run core (k + 2 * n)
        (takeEvent ((List.replicate n [rdEvent .status, .engineStep]).flatten ++ rest) s) =
      Host.Core.run core k (takeEvent rest (engineSteps n s)) := by
  induction n generalizing s with
  | zero => rfl
  | succ n ih =>
    rw [List.replicate_succ, List.flatten_cons, List.append_assoc]
    exact (run_next _ _ _ (step_statusRead _ s)).trans
      ((run_next _ _ _ (step_engineStep_of_statusRead _ s)).trans (ih (engineStep s)))

theorem pollLoop_cons (n : Nat) : ∃ rest, pollLoop n = rdEvent .status :: rest := by
  cases n <;> exact ⟨_, rfl⟩

theorem pollLoop_add (n m : Nat) :
    pollLoop (n + m) = (List.replicate n [rdEvent .status, .engineStep]).flatten ++ pollLoop m := by
  rw [pollLoop, List.replicate_add, List.flatten_append, List.append_assoc, pollLoop]

/-- The read after `n` rounds of the loop drives STATUS as it stands after `n` engine steps. -/
theorem run_pollLoop (n m : Nat) (s : State) {rest : List Event} (h : pollLoop m = rdEvent .status :: rest) :
    Host.Core.run core (2 * n + 1) { s with todo := pollLoop (n + m) } =
      .next (statusRead rest (engineSteps n s)) := by
  rw [run_todo_eq_takeEvent, pollLoop_add, h, Nat.add_comm, run_pollRounds]
  exact run_next 0 _ _ (step_statusRead rest _)

theorem run_poll (s : State) :
    Host.Core.run core 2 { s with todo := expand .poll } = .next (statusRead [] (commit s)) := by
  have hcommit : step { s with todo := expand .poll } = .next (takeEvent [rdEvent .status] (commit s)) :=
    congrArg _ (commit_takeEvent [rdEvent .status] s)
  exact (run_next 1 _ _ hcommit).trans (run_next 0 _ _ (step_statusRead [] _))

/-- What the bus drives at a read of STATUS has BUSY in bit 0 (R22). -/
theorem statusRead_rdata (rest : List Event) (s : State) :
    ∃ v, (statusRead rest s).rdata = some v ∧ v.getLsbD 0 = s.status.busy :=
  ⟨_, rfl, (statusWord_bits s.status).1⟩

/-- Settles O54: each read drives the BUSY of the engine steps before it, which O47 gives. -/
theorem pollIsTheLoopOfReads : Obligations.PollIsTheLoopOfReads := by
  refine ⟨fun s p hp h => ?_, fun s p hs hp => ⟨fun n hn => ?_, ?_⟩⟩
  · rw [run_poll, ← engineSteps_left hp h]
    exact run_pollLoop p.left 0 s rfl
  · obtain ⟨hbusy, -⟩ := (acceptedCommandsComplete s p n hs hp).1 hn
    obtain ⟨m, hm⟩ : ∃ m, p.left = n + m := ⟨p.left - n, by omega⟩
    obtain ⟨rest, hrest⟩ := pollLoop_cons m
    obtain ⟨v, hv, hv0⟩ := statusRead_rdata rest (engineSteps n s)
    exact ⟨_, v, hm ▸ run_pollLoop n m s hrest, hv, hv0.trans hbusy⟩
  · obtain ⟨-, hbusy, -⟩ := (acceptedCommandsComplete s p p.left hs hp).2 le_rfl
    obtain ⟨v, hv, hv0⟩ := statusRead_rdata [] (engineSteps p.left s)
    exact ⟨_, v, run_pollLoop p.left 0 s rfl, hv, hv0.trans hbusy⟩

end Sys2Proof.Proofs

/-! PROOFS. GaloisFieldArithmetic (40_gf_arith.md R100, R101, R103): the two multipliers are linear, what they do bit by
bit, and that only the zero byte goes to zero. -/

namespace Sys2Proof.Proofs
open Sys2Proof.Machine Sys2Proof.Claims

theorem selection_xor (p q : Bool) (c : Byte) :
    (if (p ^^ q) then c else 0#8) = (if p then c else 0#8) ^^^ (if q then c else 0#8) := by
  cases p <;> cases q <;> simp

theorem double_xor (a b : Byte) : double (a ^^^ b) = double a ^^^ double b := by
  have hshift : (a ^^^ b) <<< 1 = a <<< 1 ^^^ b <<< 1 := BitVec.shiftLeft_xor_distrib a b 1
  rw [double, hshift, BitVec.getLsbD_xor, selection_xor, double, double]
  ac_rfl

theorem timesThree_xor (a b : Byte) : timesThree (a ^^^ b) = timesThree a ^^^ timesThree b := by
  rw [timesThree, double_xor, timesThree, timesThree]
  ac_rfl

theorem double_xor_timesThree (a : Byte) : double a ^^^ timesThree a = a := by
  rw [timesThree, ← BitVec.xor_assoc, BitVec.xor_self, BitVec.zero_xor]

/-- Two words with one image differ by a word whose image is zero. -/
theorem bijective_of_xor_linear {w : Nat} {f : BitVec w → BitVec w} (hxor : ∀ a b, f (a ^^^ b) = f a ^^^ f b)
    (hker : ∀ a, f a = 0#w → a = 0#w) : Function.Bijective f := by
  refine Finite.injective_iff_bijective.mp fun a b hab => ?_
  have hzero : f (a ^^^ b) = 0#w := by rw [hxor, hab, BitVec.xor_self]
  exact BitVec.xor_eq_zero_iff.mp (hker _ hzero)

/-- Bit 0 of 0x1B is set, and the shift leaves bit 0 clear. -/
theorem double_bit_zero (a : Byte) : (double a).getLsbD 0 = a.getLsbD 7 := by
  rw [double, BitVec.getLsbD_xor]
  cases a.getLsbD 7 <;> simp

theorem double_bit_succ (a : Byte) {i : Nat} (hi : i < 7) :
    (double a).getLsbD (i + 1) = (a.getLsbD i ^^ (a.getLsbD 7 && (0x1B#8).getLsbD (i + 1))) := by
  have hi' : i + 1 < 8 := by omega
  rw [double, BitVec.getLsbD_xor]
  cases a.getLsbD 7 <;> simp [hi', -BitVec.getLsbD_eq_getElem]

/-- With the top bit clear nothing is reduced, and `double` is a shift. -/
theorem double_bit_succ_of_top_clear {a : Byte} (h7 : a.getLsbD 7 = false) {i : Nat} (hi : i < 7) :
    (double a).getLsbD (i + 1) = a.getLsbD i := by
  rw [double_bit_succ a hi, h7, Bool.false_and, Bool.xor_false]

theorem eq_zero_of_double_eq_zero (a : Byte) (h : double a = 0#8) : a = 0#8 := by
  have h7 : a.getLsbD 7 = false := by rw [← double_bit_zero, h, BitVec.getLsbD_zero]
  refine BitVec.eq_of_getLsbD_eq fun i hi => ?_
  rw [BitVec.getLsbD_zero]
  obtain rfl | hi : i = 7 ∨ i < 7 := by omega
  · exact h7
  · rw [← double_bit_succ_of_top_clear h7 hi, h, BitVec.getLsbD_zero]

/-- Going up a fixed byte from bit 0, which is bit 7, the selection of bit 7 is added once for each of the bits 1, 3 and
4 of 0x1B: an odd number, as x + 1 does not divide the reduction polynomial. -/
theorem top_clear_of_double_eq_self {a : Byte} (h : double a = a) : a.getLsbD 7 = false := by
  have hzero := double_bit_zero a
  have hsucc (i : Nat) (hi : i < 7) := double_bit_succ a hi
  rw [h] at hzero hsucc
  have h7 := hsucc 6 (by decide)
  rw [hsucc 5 (by decide), hsucc 4 (by decide), hsucc 3 (by decide), hsucc 2 (by decide), hsucc 1 (by decide),
    hsucc 0 (by decide), hzero] at h7
  revert h7
  cases a.getLsbD 7 <;> decide

theorem eq_zero_of_double_eq_self {a : Byte} (h : double a = a) : a = 0#8 := by
  have h7 := top_clear_of_double_eq_self h
  refine BitVec.eq_of_getLsbD_eq fun i hi => ?_
  rw [BitVec.getLsbD_zero]
  induction i with
  | zero => rw [← h, double_bit_zero, h7]
  | succ i ih => rw [← h, double_bit_succ_of_top_clear h7 (by omega), ih (by omega)]

theorem eq_zero_of_timesThree_eq_zero (a : Byte) (h : timesThree a = 0#8) : a = 0#8 :=
  eq_zero_of_double_eq_self (BitVec.xor_eq_zero_iff.mp h)

/-- Settles O1: a linear map with only the zero byte in its kernel is a bijection. -/
theorem doublingAndTriplingAreLinearBijections : Obligations.DoublingAndTriplingAreLinearBijections :=
  ⟨double_xor, timesThree_xor, bijective_of_xor_linear double_xor eq_zero_of_double_eq_zero,
    bijective_of_xor_linear timesThree_xor eq_zero_of_timesThree_eq_zero, double_xor_timesThree⟩

end Sys2Proof.Proofs

/-! PROOFS. GaloisFieldArithmetic (40_gf_arith.md R102): Horner's product is linear in its first factor, commutative and
associative with unit 1, and the power a^254 is the inverse. -/

namespace Sys2Proof.Proofs
open Sys2Proof.Machine Sys2Proof.Claims

theorem gfMulBits_zero (a b : Byte) : gfMulBits a b 0 = 0#8 := rfl

/-- Horner's rule adds and doubles, so a map that commutes with both can be applied to the factor instead. -/
theorem map_gfMulBits {f : Byte → Byte} (hxor : ∀ a b, f (a ^^^ b) = f a ^^^ f b)
    (hdouble : ∀ a, f (double a) = double (f a)) (a b : Byte) (n : Nat) :
    f (gfMulBits a b n) = gfMulBits (f a) b n := by
  have hzero : f 0#8 = 0#8 := by
    have h := hxor 0#8 0#8
    rwa [BitVec.xor_self, BitVec.xor_self] at h
  induction n with
  | zero => exact hzero
  | succ n ih =>
    rw [gfMulBits, gfMulBits, hxor, hdouble, ih]
    cases b.getLsbD (7 - n) <;> simp [hzero]

theorem gfMulBits_xor (a b c : Byte) (n : Nat) :
    gfMulBits (a ^^^ b) c n = gfMulBits a c n ^^^ gfMulBits b c n := by
  induction n with
  | zero => simp only [gfMulBits_zero, BitVec.xor_zero]
  | succ n ih =>
    rw [gfMulBits, gfMulBits, gfMulBits, ih, double_xor]
    cases c.getLsbD (7 - n)
    · simp
    · simp only [if_true]
      ac_rfl

theorem gfMul_xor (a b c : Byte) : gfMul (a ^^^ b) c = gfMul a c ^^^ gfMul b c := gfMulBits_xor a b c 8

theorem gfMul_double (a b : Byte) : gfMul (double a) b = double (gfMul a b) :=
  (map_gfMulBits double_xor (fun _ => rfl) a b 8).symm

theorem gfMul_right_comm (a b c : Byte) : gfMul (gfMul a b) c = gfMul (gfMul a c) b :=
  (map_gfMulBits (f := (gfMul · b)) (gfMul_xor · · b) (gfMul_double · b) a c 8).symm

/-- Horner's rule at 1 reads off the bits of the second factor from the top, and never reduces. -/
theorem gfMulBits_one (a : Byte) {n : Nat} (hn : n ≤ 8) : gfMulBits 1 a n = a >>> (8 - n) := by
  induction n with
  | zero => exact (BitVec.ushiftRight_eq_zero le_rfl).symm
  | succ n ih =>
    have hclear : (a >>> (8 - n)).getLsbD 7 = false := by
      rw [BitVec.getLsbD_ushiftRight]
      exact BitVec.getLsbD_of_ge _ _ (by omega)
    have hamount : 8 - (n + 1) = 7 - n := by omega
    rw [gfMulBits, ih (by omega), hamount]
    refine BitVec.eq_of_getLsbD_eq fun i hi => ?_
    rw [BitVec.getLsbD_xor, BitVec.getLsbD_ushiftRight]
    cases i with
    | zero =>
      rw [double_bit_zero, hclear, Nat.add_zero]
      cases a.getLsbD (7 - n) <;> rfl
    | succ i =>
      have hindex : 8 - n + i = 7 - n + (i + 1) := by omega
      rw [double_bit_succ_of_top_clear hclear (by omega), BitVec.getLsbD_ushiftRight, hindex]
      cases a.getLsbD (7 - n) <;> simp

theorem gfMul_one_left (a : Byte) : gfMul 1 a = a := gfMulBits_one a le_rfl

theorem gfMul_comm (a b : Byte) : gfMul a b = gfMul b a := by
  have h := gfMul_right_comm 1 a b
  rwa [gfMul_one_left, gfMul_one_left] at h

theorem gfMul_one (a : Byte) : gfMul a 1 = a := by rw [gfMul_comm, gfMul_one_left]

theorem gfMul_assoc (a b c : Byte) : gfMul (gfMul a b) c = gfMul a (gfMul b c) := by
  rw [gfMul_comm a b, gfMul_right_comm, gfMul_comm]

theorem gfMul_gfMul_gfMul_comm (a b c d : Byte) :
    gfMul (gfMul a b) (gfMul c d) = gfMul (gfMul a c) (gfMul b d) := by
  rw [← gfMul_assoc, gfMul_right_comm a b c, gfMul_assoc]

theorem gfMul_two (a : Byte) : gfMul 2#8 a = double a := by
  have h : gfMul (double 1) a = double (gfMul 1 a) := gfMul_double 1 a
  rwa [gfMul_one_left] at h

/-- `a^2`. -/
def gfSquare (a : Byte) : Byte := gfMul a a

theorem gfSquare_gfMul : Function.Semiconj₂ gfSquare gfMul gfMul := fun a b => gfMul_gfMul_gfMul_comm a b a b

/-- The two mixed products are equal and cancel. -/
theorem gfSquare_xor : Function.Semiconj₂ gfSquare (· ^^^ ·) (· ^^^ ·) := fun a b => by
  have hleft : gfMul a (a ^^^ b) = gfMul a a ^^^ gfMul a b := by rw [gfMul_comm, gfMul_xor, gfMul_comm b]
  have hright : gfMul b (a ^^^ b) = gfMul a b ^^^ gfMul b b := by rw [gfMul_comm, gfMul_xor]
  calc gfMul (a ^^^ b) (a ^^^ b)
      = gfMul a a ^^^ gfMul a b ^^^ (gfMul a b ^^^ gfMul b b) := by rw [gfMul_xor, hleft, hright]
    _ = gfMul a a ^^^ (gfMul a b ^^^ gfMul a b) ^^^ gfMul b b := by ac_rfl
    _ = gfMul a a ^^^ gfMul b b := by rw [BitVec.xor_self, BitVec.xor_zero]

/-- `a^256`. -/
def gfPow256 : Byte → Byte := gfSquare^[8]

theorem gfPow256_gfMul : Function.Semiconj₂ gfPow256 gfMul gfMul := gfSquare_gfMul.iterate 8

theorem gfPow256_xor : Function.Semiconj₂ gfPow256 (· ^^^ ·) (· ^^^ ·) := gfSquare_xor.iterate 8

theorem gfPow256_two : gfPow256 2#8 = 2#8 := by decide +kernel

theorem gfPow256_double (a : Byte) : gfPow256 (double a) = double (gfPow256 a) := by
  rw [← gfMul_two, gfPow256_gfMul, gfPow256_two, gfMul_two]

/-- A linear map that commutes with doubling and keeps 1 keeps every byte. -/
theorem gfPow256_eq_self (a : Byte) : gfPow256 a = a := by
  have hone : gfPow256 1 = 1 := by decide +kernel
  calc gfPow256 a = gfPow256 (gfMul 1 a) := by rw [gfMul_one_left]
    _ = gfMul (gfPow256 1) a := map_gfMulBits gfPow256_xor gfPow256_double 1 a 8
    _ = a := by rw [hone, gfMul_one_left]

theorem gfInvPow_gfMul_gfSquare (a : Byte) (n : Nat) : gfMul (gfInvPow a n) (gfSquare a) = gfSquare^[n + 1] a := by
  induction n with
  | zero => exact gfMul_one_left _
  | succ n ih =>
    calc gfMul (gfInvPow a (n + 1)) (gfSquare a)
        = gfMul (gfMul (gfSquare (gfInvPow a n)) (gfSquare a)) (gfSquare a) := rfl
      _ = gfMul (gfSquare (gfInvPow a n)) (gfSquare (gfSquare a)) := gfMul_assoc _ _ _
      _ = gfSquare^[n + 1 + 1] a := by rw [← gfSquare_gfMul, ih, Function.iterate_succ_apply' gfSquare (n + 1)]

theorem gfInv_gfMul_gfSquare (a : Byte) : gfMul (gfInv a) (gfSquare a) = a :=
  (gfInvPow_gfMul_gfSquare a 7).trans (gfPow256_eq_self a)

theorem gfInv_zero : gfInv 0#8 = 0#8 := by decide +kernel

theorem gfInv_eq_of_gfMul_eq_one {a b : Byte} (h : gfMul a b = 1) : gfInv a = b := by
  have hsquare : gfMul (gfSquare a) (gfSquare b) = 1 := by rw [← gfSquare_gfMul, h, gfSquare, gfMul_one]
  calc gfInv a = gfMul (gfMul (gfInv a) (gfSquare a)) (gfSquare b) := by rw [gfMul_assoc, hsquare, gfMul_one]
    _ = gfMul (gfMul a b) b := by rw [gfInv_gfMul_gfSquare, gfMul_assoc, gfSquare]
    _ = b := by rw [h, gfMul_one_left]

end Sys2Proof.Proofs

/-! PROOFS. SubstitutionTable (41_sbox.md R111, R112, R114): an entry of the table with the affine map undone is the
field inverse of its index, which gives both the construction and the bijection. -/

namespace Sys2Proof.Proofs
open Sys2Proof.Machine Sys2Proof.Claims

/-- The affine map of R111. -/
def sboxAffine (b : Byte) : Byte :=
  b ^^^ b.rotateLeft 1 ^^^ b.rotateLeft 2 ^^^ b.rotateLeft 3 ^^^ b.rotateLeft 4 ^^^ 0x63#8

/-- The inverse of the affine map: as polynomials in the rotation `x`, `(1 + x + x^2 + x^3 + x^4) * (x + x^3 + x^6)` is
1 modulo `x^8 + 1`. -/
def sboxAffineInv (b : Byte) : Byte := b.rotateLeft 1 ^^^ b.rotateLeft 3 ^^^ b.rotateLeft 6 ^^^ 0x05#8

theorem sboxByConstruction_eq (a : Byte) : sboxByConstruction a = sboxAffine (gfInv a) := rfl

theorem sboxAffine_sboxAffineInv : ∀ b, sboxAffine (sboxAffineInv b) = b := by decide +kernel

/-- The table of R110, read entry by entry. -/
theorem gfMul_sboxAffineInv_substitute :
    ∀ a, a ≠ 0#8 → gfMul a (sboxAffineInv (substitute a)) = 1 := by decide +kernel

theorem sboxAffineInv_substitute (a : Byte) : sboxAffineInv (substitute a) = gfInv a := by
  by_cases ha : a = 0#8
  · subst ha
    rw [gfInv_zero]
    decide
  · exact (gfInv_eq_of_gfMul_eq_one (gfMul_sboxAffineInv_substitute a ha)).symm

theorem substitute_eq_sboxByConstruction (a : Byte) : substitute a = sboxByConstruction a := by
  rw [sboxByConstruction_eq, ← sboxAffineInv_substitute, sboxAffine_sboxAffineInv]

theorem gfInv_gfInv (a : Byte) : gfInv (gfInv a) = a := by
  by_cases ha : a = 0#8
  · rw [ha, gfInv_zero, gfInv_zero]
  · have h := gfMul_sboxAffineInv_substitute a ha
    rw [sboxAffineInv_substitute, gfMul_comm] at h
    exact gfInv_eq_of_gfMul_eq_one h

theorem substitute_leftInverse : Function.LeftInverse (fun b => gfInv (sboxAffineInv b)) substitute := fun a =>
  (congrArg gfInv (sboxAffineInv_substitute a)).trans (gfInv_gfInv a)

/-- The table of R110, read entry by entry. -/
theorem substitute_ne : ∀ a : Byte, substitute a ≠ a ∧ substitute a ≠ a ^^^ 0xFF#8 := by decide +kernel

/-- Settles O3: the affine map and the field inverse are undone in turn. -/
theorem sboxIsAPermutation : Obligations.SboxIsAPermutation :=
  ⟨Finite.injective_iff_bijective.mp substitute_leftInverse.injective, substitute_ne⟩

/-- Settles O2, by undoing the affine map on the entry: what is left is the field inverse. -/
theorem sboxTableIsInverseThenAffine : Obligations.SboxTableIsInverseThenAffine := fun a =>
  substitute_eq_sboxByConstruction (.ofFin a)

end Sys2Proof.Proofs

/-! PROOFS. KeySchedule (42_key_schedule.md R124, R128, R129): the first four words are the key, and EXPAND_KEY from its
issue to its commit. -/

namespace Sys2Proof.Proofs
open Sys2Proof.Machine Sys2Proof.Claims

/-- No step of the recurrence writes the words of the key (R124, R125). -/
theorem keyExpansion_eq_column (key : Bytes16) (i : Fin 4) : (keyExpansion key)[i.val] = column key i := by
  unfold keyExpansion
  rw [expandTo_getElem key 0 40 i.val (by omega) (by omega) (by omega), expandTo, expandStart,
    Vector.getElem_append_left i.isLt]
  fin_cases i <;> rfl

/-- Settles O4. -/
theorem keyScheduleFollowsTheRecurrence : Obligations.KeyScheduleFollowsTheRecurrence := by
  refine fun key => ⟨fun i m => ?_, fun i h => ?_⟩
  · rw [keyExpansion_eq_column, byteAt_eq_wordByte_column]
  · obtain ⟨n, rfl⟩ : ∃ n, i = n + 4 := ⟨i - 4, by omega⟩
    exact keyExpansion_recurrence key n (by omega)

/-- Settles O5: a 16-byte string is put together from its columns. -/
theorem roundKeyZeroIsTheKey : Obligations.RoundKeyZeroIsTheKey := by
  intro key
  have hw := keyExpansion_eq_column key
  calc roundKey (keyExpansion key) 0
      = ofColumns (column key 0) (column key 1) (column key 2) (column key 3) := by
        rw [← hw 0, ← hw 1, ← hw 2, ← hw 3]; rfl
    _ = key := ofColumns_column key

/-- After `LAT(op)` engine steps a started command has written its results from its snapshot (R78, R81, R82). -/
theorem engineSteps_started (op : Op) (v : Word) (key : Vector Word 4) (s : State) :
    engineSteps (latency op) (started op v key s) =
      finishCommand (applyResult { op := op, word := v, snap := snapshot s, left := latency op }
        (started op v key s)) := by
  have hp : (started op v key s).pend = some { op := op, word := v, snap := snapshot s, left := latency op } := rfl
  exact (engineSteps_left hp (latency_pos op)).trans (commit_some _ _ hp)

/-- Settles O20: the one check of EXPAND_KEY passes, and its result takes the key from the snapshot. -/
theorem expandKeyExpandsTheKey : Obligations.ExpandKeyExpandsTheKey := by
  intro blen xlen s hb
  have hcheck : checkOf (.expandKey 16 blen xlen) s = none := rfl
  exact ⟨_, exec_start hb hcheck, rfl, engineSteps_started .expandKey _ zeroKey s⟩

end Sys2Proof.Proofs

/-! PROOFS. SubBytes and ShiftRows (43_round_transforms.md R141, R142, R146): what each does entry by entry, and from it
byte by byte. -/

namespace Sys2Proof.Proofs
open Sys2Proof.Machine Sys2Proof.Claims

/-- Byte `k` is the entry in row `k mod 4` of column `k / 4` (R12, R140). -/
theorem byteAt_eq_entry (s : Bytes16) (k : Fin 16) :
    byteAt s k = entry s ⟨k.val % 4, by omega⟩ ⟨k.val / 4, by omega⟩ := by
  have hk : (⟨k.val % 4 + 4 * (k.val / 4), by omega⟩ : Fin 16) = k := Fin.ext (Nat.mod_add_div k.val 4)
  rw [entry, hk]

@[simp] theorem entry_subBytes (s : Bytes16) (r c : Fin 4) : entry (subBytes s) r c = substitute (entry s r c) :=
  entry_ofEntries _ r c

@[simp] theorem byteAt_subBytes (s : Bytes16) (k : Fin 16) : byteAt (subBytes s) k = substitute (byteAt s k) := by
  rw [byteAt_eq_entry, entry_subBytes, ← byteAt_eq_entry]

/-- States with one image agree at each byte, since the S-box is injective. -/
theorem subBytes_injective : Function.Injective subBytes := fun s t h =>
  bytes16_ext fun k => substitute_leftInverse.injective <| by rw [← byteAt_subBytes, h, byteAt_subBytes]

/-- Settles O6: SubBytes is injective on a finite type. -/
theorem subBytesActsOnEachByte : Obligations.SubBytesActsOnEachByte :=
  ⟨byteAt_subBytes, Finite.injective_iff_bijective.mp subBytes_injective⟩

@[simp] theorem entry_shiftRows (s : Bytes16) (r c : Fin 4) : entry (shiftRows s) r c = entry s r (c + r) :=
  entry_ofEntries _ r c

/-- Byte `k = r + 4c` comes from the byte of row `r` and column `(c + r) mod 4`, which is the list of R142. -/
theorem byteAt_shiftRows (s : Bytes16) (k : Fin 16) :
    byteAt (shiftRows s) k = byteAt s (#v[0, 5, 10, 15, 4, 9, 14, 3, 8, 13, 2, 7, 12, 1, 6, 11][k]) := by
  rw [byteAt_eq_entry, entry_shiftRows, entry]
  congr 1
  revert k
  decide

/-- Row `r` moves by `4r` columns in all. -/
theorem shiftRows_four_times (s : Bytes16) : shiftRows (shiftRows (shiftRows (shiftRows s))) = s := by
  have hcol : ∀ r c : Fin 4, c + r + r + r + r = c := by decide
  refine state_ext fun r c => ?_
  simp only [entry_shiftRows, hcol]

/-- Settles O7. -/
theorem shiftRowsPermutesTheBytes : Obligations.ShiftRowsPermutesTheBytes :=
  ⟨byteAt_shiftRows, shiftRows_four_times⟩

end Sys2Proof.Proofs

/-! PROOFS. MixColumns (43_round_transforms.md R143, R146): the four equations as one equation in the row, the square of
MixColumn, and from them the laws of a column and of a State. -/

namespace Sys2Proof.Proofs
open Sys2Proof.Machine Sys2Proof.Claims

/-- Two words with the same bytes are equal. -/
theorem word_ext {a b : Word} (h : ∀ m, wordByte a m = wordByte b m) : a = b := by
  rw [← wordOf_wordByte a, ← wordOf_wordByte b, h, h, h, h]

/-- Two States with the same columns are equal. -/
theorem column_ext {s t : Bytes16} (h : ∀ c, column s c = column t c) : s = t := by
  rw [← ofColumns_column s, ← ofColumns_column t, h, h, h, h]

@[simp] theorem wordByte_xor (a b : Word) (m : Fin 4) : wordByte (a ^^^ b) m = wordByte a m ^^^ wordByte b m := by
  rw [wordByte, BitVec.extractLsb'_xor, wordByte, wordByte]

@[simp] theorem column_xor (s t : Bytes16) (c : Fin 4) : column (s ^^^ t) c = column s c ^^^ column t c := by
  rw [column, BitVec.extractLsb'_xor, column, column]

theorem wordByte_wordOf_self (a : Byte) (m : Fin 4) : wordByte (wordOf a a a a) m = a := by
  rw [wordByte_wordOf]
  fin_cases m <;> rfl

theorem xor_cancel_left (a b : Byte) : a ^^^ (a ^^^ b) = b := by
  rw [← BitVec.xor_assoc, BitVec.xor_self, BitVec.zero_xor]

/-- With `BitVec.xor_comm` and `BitVec.xor_assoc` it lets `simp` sort an exclusive-or of bytes and cancel equal ones. -/
theorem xor_left_comm (a b c : Byte) : a ^^^ (b ^^^ c) = b ^^^ (a ^^^ c) := by
  ac_rfl

theorem double_zero : double 0#8 = 0#8 := rfl

/-- The four equations of R143 in one: row `r + k` modulo 4 is the `k`-th row below row `r`. -/
theorem wordByte_mixColumn (w : Word) (r : Fin 4) :
    wordByte (mixColumn w) r =
      double (wordByte w r ^^^ wordByte w (r + 1)) ^^^
        (wordByte w (r + 1) ^^^ wordByte w (r + 2) ^^^ wordByte w (r + 3)) := by
  rw [mixColumn, wordByte_wordOf, double_xor]
  match r with
  | 0 | 1 | 2 | 3 => simp [timesThree, BitVec.xor_comm, xor_left_comm, BitVec.xor_assoc]

theorem mixColumn_xor (v w : Word) : mixColumn (v ^^^ w) = mixColumn v ^^^ mixColumn w := by
  refine word_ext fun r => ?_
  simp only [wordByte_mixColumn, wordByte_xor, double_xor]
  ac_rfl

theorem mixColumn_equal_bytes (a : Byte) : mixColumn (wordOf a a a a) = wordOf a a a a := by
  refine word_ext fun r => ?_
  simp only [wordByte_mixColumn, wordByte_wordOf_self, BitVec.xor_self, double_zero, BitVec.zero_xor]

theorem mixColumn_row_xor_next (w : Word) (r : Fin 4) :
    wordByte (mixColumn w) r ^^^ wordByte (mixColumn w) (r + 1) =
      double (wordByte w r ^^^ wordByte w (r + 2)) ^^^ (wordByte w r ^^^ wordByte w (r + 1)) := by
  simp [wordByte_mixColumn, double_xor, add_assoc, BitVec.xor_comm, xor_left_comm, BitVec.xor_assoc]

theorem mixColumn_rows_below_xor (w : Word) (r : Fin 4) :
    wordByte (mixColumn w) (r + 1) ^^^ wordByte (mixColumn w) (r + 2) ^^^ wordByte (mixColumn w) (r + 3) =
      double (wordByte w r ^^^ wordByte w (r + 1)) ^^^ wordByte w r := by
  simp [wordByte_mixColumn, double_xor, add_assoc, BitVec.xor_comm, xor_left_comm, BitVec.xor_assoc]

/-- The square of the matrix of R143 has 5 on its diagonal and 4 two places off it. -/
theorem wordByte_mixColumn_mixColumn (w : Word) (r : Fin 4) :
    wordByte (mixColumn (mixColumn w)) r =
      double (double (wordByte w r ^^^ wordByte w (r + 2))) ^^^ wordByte w r := by
  rw [wordByte_mixColumn, mixColumn_row_xor_next, mixColumn_rows_below_xor, double_xor, BitVec.xor_assoc,
    xor_cancel_left]

/-- In the square a row and the row two below it add up as they did in the word, so squaring again cancels what the
first square added. -/
theorem mixColumn_four_times (w : Word) : mixColumn (mixColumn (mixColumn (mixColumn w))) = w := by
  refine word_ext fun r => ?_
  have hsum : wordByte (mixColumn (mixColumn w)) r ^^^ wordByte (mixColumn (mixColumn w)) (r + 2) =
      wordByte w r ^^^ wordByte w (r + 2) := by
    simp [wordByte_mixColumn_mixColumn, double_xor, add_assoc, BitVec.xor_comm, xor_left_comm, BitVec.xor_assoc]
  rw [wordByte_mixColumn_mixColumn, hsum, wordByte_mixColumn_mixColumn, xor_cancel_left]

@[simp] theorem column_mixColumns (s : Bytes16) (c : Fin 4) : column (mixColumns s) c = mixColumn (column s c) := by
  rw [mixColumns, column_ofColumns]
  fin_cases c <;> rfl

theorem mixColumns_xor (s t : Bytes16) : mixColumns (s ^^^ t) = mixColumns s ^^^ mixColumns t := by
  refine column_ext fun c => ?_
  simp only [column_mixColumns, column_xor, mixColumn_xor]

theorem mixColumns_four_times (s : Bytes16) : mixColumns (mixColumns (mixColumns (mixColumns s))) = s := by
  refine column_ext fun c => ?_
  simp only [column_mixColumns, mixColumn_four_times]

/-- Settles O8: the laws of MixColumn, at each column. -/
theorem mixColumnsIsLinearOfOrderFour : Obligations.MixColumnsIsLinearOfOrderFour :=
  ⟨mixColumns_xor, mixColumns_four_times, mixColumn_equal_bytes, column_mixColumns⟩

end Sys2Proof.Proofs

/-! PROOFS. BlockCipher (44_block_cipher.md R160, R165, R166, R168): each round is injective, and ENCRYPT_BLOCK from its
issue to its commit. -/

namespace Sys2Proof.Proofs
open Sys2Proof.Machine Sys2Proof.Claims

theorem shiftRows_injective : Function.Injective shiftRows :=
  Function.LeftInverse.injective (g := fun s => shiftRows (shiftRows (shiftRows s))) shiftRows_four_times

theorem mixColumns_injective : Function.Injective mixColumns :=
  Function.LeftInverse.injective (g := fun s => mixColumns (mixColumns (mixColumns s))) mixColumns_four_times

theorem addRoundKey_injective (k : Bytes16) : Function.Injective fun s => addRoundKey s k :=
  fun _ _ h => (BitVec.xor_left_inj k).mp h

theorem standardRound_injective (w : Schedule) (round : Fin 11) :
    Function.Injective fun s => standardRound w s round :=
  (addRoundKey_injective _).comp (mixColumns_injective.comp (shiftRows_injective.comp subBytes_injective))

theorem finalRound_injective (w : Schedule) : Function.Injective (finalRound w) :=
  (addRoundKey_injective _).comp (shiftRows_injective.comp subBytes_injective)

theorem standardRounds_injective (w : Schedule) (rounds : List (Fin 11)) :
    Function.Injective (rounds.foldl (standardRound w)) := by
  induction rounds with
  | nil => exact Function.injective_id
  | cons round rounds ih => exact ih.comp (standardRound_injective w round)

/-- A composition of injective rounds (R160). -/
theorem cipher_injective (w : Schedule) : Function.Injective fun b => cipher b w := fun _ _ h =>
  addRoundKey_injective _ (standardRounds_injective w _ (finalRound_injective w h))

/-- Settles O9: the cipher is injective on a finite type. -/
theorem cipherIsAPermutationOfBlocks : Obligations.CipherIsAPermutationOfBlocks := fun w =>
  Finite.injective_iff_bijective.mp (cipher_injective w)

/-- Settles O10, by evaluation. -/
theorem cipherMeetsTheKnownAnswer : Obligations.CipherMeetsTheKnownAnswer := by
  unfold Obligations.CipherMeetsTheKnownAnswer
  decide +kernel

/-- Settles O21: both checks of ENCRYPT_BLOCK pass, and its result takes the block from the snapshot. -/
theorem encryptBlockEncryptsTheBlock : Obligations.EncryptBlockEncryptsTheBlock := by
  intro klen xlen s hb hv
  have hcheck : checkOf (.encryptBlock klen 16 xlen) s = none := by simp [checkOf, checkEncryptBlock, hv]
  exact ⟨_, exec_start hb hcheck, rfl, engineSteps_started .encryptBlock _ s.key s⟩

/-- What OUT holds at the commit of an ENCRYPT_BLOCK is a function of BLOCK and RKS (R166). -/
theorem encryptBlock_out {klen xlen : Nat} {s t : State} (hb : s.status.busy = false)
    (hv : s.status.rksValid = true) (h : exec (.encryptBlock klen 16 xlen) s = .next t) :
    (engineSteps Config.latEncrypt t).out = words32 (padOut (cipher (bank16 s.block) s.rks)) := by
  obtain ⟨u, hu, -, hout⟩ := encryptBlockEncryptsTheBlock klen xlen s hb hv
  obtain rfl := Host.Outcome.next.inj (h.symm.trans hu)
  rw [hout]
  rfl

/-- Settles O48. -/
theorem sameBlockAndScheduleSameOut : Obligations.SameBlockAndScheduleSameOut := by
  intro klen xlen klen' xlen' s s' t t' hb hb' hv hv' hblock hrks h h'
  rw [encryptBlock_out hb hv h, encryptBlock_out hb' hv' h', hblock, hrks]

end Sys2Proof.Proofs

/-! PROOFS. The iterative engine (44_block_cipher.md R164; 42_key_schedule.md R127): each machine as the iterate of its
step, its counter, and where it comes to rest. -/

namespace Sys2Proof.Proofs
open Sys2Proof.Machine Sys2Proof.Claims

theorem cipherWorkSteps_eq_iterate (w : Schedule) (n : Nat) (k : CipherWork) :
    cipherWorkSteps w n k = (cipherWorkStep w)^[n] k := by
  induction n generalizing k with
  | zero => rfl
  | succ n ih => exact ih (cipherWorkStep w k)

theorem keyWorkSteps_eq_iterate (n : Nat) (k : KeyWork) : keyWorkSteps n k = keyWorkStep^[n] k := by
  induction n generalizing k with
  | zero => rfl
  | succ n ih => exact ih (keyWorkStep k)

/-- The round counter goes up by one until it rests at 11 (R164). -/
theorem cipherWorkStep_rnd (w : Schedule) (k : CipherWork) (h : k.rnd ≤ 11) :
    (cipherWorkStep w k).rnd = min (k.rnd + 1) 11 := by
  unfold cipherWorkStep
  split
  · show k.rnd + 1 = _
    omega
  · split
    · show 11 = _
      omega
    · omega

theorem cipherWorkSteps_rnd (block : Bytes16) (w : Schedule) (n : Nat) :
    (cipherWorkSteps w n (cipherWorkStart block w)).rnd = min (n + 1) 11 := by
  rw [cipherWorkSteps_eq_iterate]
  induction n with
  | zero => rfl
  | succ n ih => rw [Function.iterate_succ_apply', cipherWorkStep_rnd] <;> omega

/-- The ten steps are the nine standard rounds and the final round of R160. -/
theorem cipherWorkSteps_ten (block : Bytes16) (w : Schedule) :
    cipherWorkSteps w 10 (cipherWorkStart block w) = { s := cipher block w, rnd := 11 } := by
  simp [cipherWorkSteps, cipherWorkStart, cipherWorkStep, cipher]

/-- Once at 11 the engine rests, with the cipher as its work (R164). -/
theorem cipherWorkSteps_of_ten_le (block : Bytes16) (w : Schedule) {n : Nat} (h : 10 ≤ n) :
    cipherWorkSteps w n (cipherWorkStart block w) = { s := cipher block w, rnd := 11 } := by
  have hrest : cipherWorkStep w { s := cipher block w, rnd := 11 } = { s := cipher block w, rnd := 11 } := rfl
  obtain ⟨m, rfl⟩ := Nat.exists_eq_add_of_le' h
  rw [cipherWorkSteps_eq_iterate, Function.iterate_add_apply, ← cipherWorkSteps_eq_iterate w 10,
    cipherWorkSteps_ten, Function.iterate_fixed hrest]

/-- The word counter is that of the recurrence, which stops at the same step (R124, R127). -/
theorem keyWorkStep_expandTo (key : Bytes16) (n : Nat) :
    keyWorkStep { w := expandTo key n, i := min (n + 4) 44 } =
      { w := expandTo key (n + 1), i := min (n + 1 + 4) 44 } := by
  by_cases h : n < 40
  · have hi : min (n + 4) 44 = n + 4 := by omega
    have hi' : min (n + 1 + 4) 44 = n + 4 + 1 := by omega
    have hlt : n + 4 < 44 := by omega
    simp [keyWorkStep, expandTo, h, hi, hi', hlt]
  · have hi : min (n + 4) 44 = 44 := by omega
    have hi' : min (n + 1 + 4) 44 = 44 := by omega
    simp [keyWorkStep, expandTo, h, hi, hi']

theorem keyWorkSteps_start (key : Bytes16) (n : Nat) :
    keyWorkSteps n (keyWorkStart key) = { w := expandTo key n, i := min (n + 4) 44 } := by
  rw [keyWorkSteps_eq_iterate]
  induction n with
  | zero => rfl
  | succ n ih => rw [Function.iterate_succ_apply', ih, keyWorkStep_expandTo]

/-- After 40 steps of the recurrence all 44 words are final (R125). -/
theorem expandTo_of_forty_le (key : Bytes16) {n : Nat} (h : 40 ≤ n) : expandTo key n = keyExpansion key :=
  Vector.ext fun i hi => expandTo_getElem key 40 n i hi hi h

/-- Settles O11. -/
theorem iterativeEngineComputesCipherAndSchedule : Obligations.IterativeEngineComputesCipherAndSchedule := by
  refine ⟨fun block w n => ⟨cipherWorkSteps_rnd block w n, fun h => ?_⟩, fun key n => ?_⟩
  · rw [cipherWorkSteps_of_ten_le block w h]
  · rw [keyWorkSteps_start]
    exact ⟨rfl, expandTo_of_forty_le key⟩

end Sys2Proof.Proofs

/-! PROOFS. RandomizedBlockScheme (45_randomized_scheme.md R180 to R188): the payload is masked by an exclusive-or with
the encrypted nonce, and RAND_ENCRYPT and RAND_DECRYPT from their issue to their commit. -/

namespace Sys2Proof.Proofs
open Sys2Proof.Machine Sys2Proof.Claims

theorem secondHalf_randEnc (p key nonce : Bytes16) :
    secondHalf (randEnc p key nonce) = p ^^^ cipher nonce (keyExpansion key) :=
  secondHalf_append _ _

theorem randDec_append (nonce payload key : Bytes16) :
    randDec (nonce ++ payload) key = payload ^^^ cipher nonce (keyExpansion key) := by
  rw [randDec, firstHalf_append, secondHalf_append]

/-- Decryption takes off the mask that encryption has put on (R185). -/
theorem randDec_randEnc (p key nonce : Bytes16) : randDec (randEnc p key nonce) key = p := by
  rw [randEnc, randDec_append, BitVec.xor_assoc, BitVec.xor_self, BitVec.xor_zero]

/-- Settles O12: one key and one nonce give one mask, which cancels. -/
theorem nonceReuseExposesThePlaintexts : Obligations.NonceReuseExposesThePlaintexts := by
  intro p q key nonce
  rw [secondHalf_randEnc, secondHalf_randEnc]
  generalize cipher nonce (keyExpansion key) = mask
  calc (p ^^^ mask) ^^^ (q ^^^ mask)
      = (p ^^^ q) ^^^ (mask ^^^ mask) := by ac_rfl
    _ = p ^^^ q := by rw [BitVec.xor_self, BitVec.xor_zero]

/-- Settles O13: the mask does not depend on the payload. -/
theorem payloadBitsAreMalleable : Obligations.PayloadBitsAreMalleable := by
  intro nonce payload flips key
  rw [randDec_append, randDec_append]
  ac_rfl

/-- Settles O22: the three checks of RAND_ENCRYPT pass, and its result takes its operands from the snapshot. -/
theorem randEncryptEncryptsTheBlock : Obligations.RandEncryptEncryptsTheBlock := by
  intro s hb
  have hcheck : checkOf (.randEncrypt 16 16 16) s = none := rfl
  exact ⟨_, exec_start hb hcheck, rfl, engineSteps_started .randEncrypt _ zeroKey s⟩

/-- Settles O23: both checks of RAND_DECRYPT pass, and its result takes its operands from the snapshot. -/
theorem randDecryptDecryptsTheCiphertext : Obligations.RandDecryptDecryptsTheCiphertext := by
  intro blen s hb
  have hcheck : checkOf (.randDecrypt 16 blen 32) s = none := rfl
  exact ⟨_, exec_start hb hcheck, rfl, engineSteps_started .randDecrypt _ zeroKey s⟩

/-- What OUT holds at the commit of a RAND_ENCRYPT (R184). -/
theorem randEncrypt_out {s : State} (hb : s.status.busy = false) :
    ∃ t, exec (.randEncrypt 16 16 16) s = .next t ∧
      (engineSteps Config.latRandEnc t).out =
        words32 (randEnc (bank16 s.block) (bank16 s.key) (bank16 s.nonce)) := by
  obtain ⟨t, ht, -, hcommit⟩ := randEncryptEncryptsTheBlock s hb
  exact ⟨t, ht, congrArg State.out hcommit⟩

/-- What OUT holds at the commit of a RAND_DECRYPT (R188). -/
theorem randDecrypt_out (blen : Nat) {s : State} (hb : s.status.busy = false) :
    ∃ t, exec (.randDecrypt 16 blen 32) s = .next t ∧
      (engineSteps Config.latRandDec t).out = words32 (padOut (randDec (bank32 s.ctin) (bank16 s.key))) := by
  obtain ⟨t, ht, -, hcommit⟩ := randDecryptDecryptsTheCiphertext blen s hb
  exact ⟨t, ht, congrArg State.out hcommit⟩

/-- Settles O53: CTIN is the RandEnc of the first state's BLOCK, which RandDec under the same key undoes. -/
theorem decryptionRecoversTheBlock : Obligations.DecryptionRecoversTheBlock := by
  refine ⟨randDec_randEnc, fun s u blen hs hu hkey => ?_⟩
  obtain ⟨t, ht, hct⟩ := randEncrypt_out hs
  obtain ⟨t', ht', hout⟩ := randDecrypt_out blen hu
  refine ⟨t, ht, fun hctin => ⟨t', ht', ?_⟩⟩
  have hplain : bank32 (engineSteps Config.latRandDec t').out = bank16 s.block ++ 0#128 := by
    rw [hout, bank32_words32, hctin, hct, bank32_words32, hkey, randDec_randEnc, padOut]
  rw [hplain]
  exact ⟨firstHalf_append _ _, secondHalf_append _ _⟩

end Sys2Proof.Proofs

/-! PROOFS. What can stop a step: an access that the interface cannot express, and nothing else (20_memory.md R51, R52;
60_exceptions.md R202, R212). -/

namespace Sys2Proof.Proofs
open Sys2Proof.Machine Sys2Proof.Claims

/-- `addr` cannot carry an offset outside the window (R51; log entry 6). -/
theorem runAccess_outside {a : Access} (s : State) (h : windowBytes ≤ (accessPlace a).1) :
    runAccess a s = .refused .accessNotExpressible := by
  refine runAccess_refused a s (Bool.eq_false_iff.2 fun he => ?_)
  obtain ⟨-, -, hw⟩ := (accessExpressible_iff a).1 he
  exact Nat.not_lt.2 h hw

/-- Settles O43: an expressible access lies inside the window. -/
theorem accessesOutsideTheWindowAreRefused : Obligations.AccessesOutsideTheWindowAreRefused :=
  fun _ _ _ s h => ⟨runAccess_outside s h, runAccess_outside s h⟩

theorem exec_next (i : Instr) (s : State) : ∃ t, exec i s = .next t := by
  obtain ⟨-, hdrop⟩ | ⟨-, _, hfail⟩ | ⟨-, -, -, hstart⟩ := exec_cases i s
  · exact ⟨_, hdrop⟩
  · exact ⟨_, hfail⟩
  · exact ⟨_, hstart⟩

theorem runAccess_expressible {a : Access} (s : State) (h : accessExpressible a = true) :
    ∃ t, runAccess a s = .next t := by
  obtain ⟨hsize, h4, hw⟩ := (accessExpressible_iff a).1 h
  cases a with
  | read off bytes =>
    obtain rfl : bytes = 4 := hsize
    exact ⟨_, runAccess_read off s h4 hw⟩
  | write off bytes v =>
    obtain rfl : bytes = 4 := hsize
    rw [runAccess_write off v s h4 hw]
    exact memWrite_next off v s

theorem runResetCycle_expressible {a : Access} (s : State) (h : accessExpressible a = true) :
    runResetCycle (some a) s = .next { resetCore s with rdata := resetRdata (some a) } := if_pos h

theorem runResetCycle_refused {a : Access} (s : State) (h : accessExpressible a = false) :
    runResetCycle (some a) s = .refused .accessNotExpressible := if_neg (Bool.eq_false_iff.1 h)

/-- An event is refused for the access that it carries, or it runs. -/
theorem runEvent_next_or_refused (e : Event) (s : State) :
    (∃ t, runEvent e s = .next t) ∨
      (runEvent e s = .refused .accessNotExpressible ∧
        ∃ a, (e = .access a ∨ e = .resetCycle (some a)) ∧ accessExpressible a = false) := by
  cases e with
  | engineStep => exact .inl ⟨_, rfl⟩
  | engineFinish => exact .inl ⟨_, rfl⟩
  | access a =>
    cases he : accessExpressible a with
    | true => exact .inl (runAccess_expressible s he)
    | false => exact .inr ⟨runAccess_refused a s he, a, .inl rfl, he⟩
  | resetCycle a =>
    cases a with
    | none => exact .inl ⟨_, rfl⟩
    | some a =>
      cases he : accessExpressible a with
      | true => exact .inl ⟨_, runResetCycle_expressible s he⟩
      | false => exact .inr ⟨runResetCycle_refused s he, a, .inr rfl, he⟩

/-- Settles O56: a step is the engine's timeless step or runs one event, which only its access can stop. -/
theorem onlyAnInexpressibleAccessStops : Obligations.OnlyAnInexpressibleAccessStops := by
  refine ⟨exec_next, fun s => ?_⟩
  cases htodo : s.todo with
  | nil => exact .inl ⟨_, step_nil s htodo⟩
  | cons e rest =>
    rw [step_cons s e rest htodo]
    obtain hnext | ⟨hrefused, a, he, hexpr⟩ := runEvent_next_or_refused e (takeEvent rest s)
    · exact .inl hnext
    · refine .inr ⟨hrefused, a, rest, ?_, fun hfits => ?_⟩
      · exact he.imp (congrArg (· :: rest)) (congrArg (· :: rest))
      · exact Bool.eq_false_iff.1 hexpr ((accessExpressible_iff a).2 hfits)

end Sys2Proof.Proofs

/-! PROOFS. Reset and hazards (70_reset_and_hazards.md R230, R245, R246): a host write of an operand beside an engine
step, the time a command takes, and a cycle with `rst_n = 0`. -/

namespace Sys2Proof.Proofs
open Sys2Proof.Machine Sys2Proof.Claims

/-- The state with the four operand banks put to the values given. -/
def withOperands (key block nonce : Vector Word 4) (ctin : Vector Word 8) (s : State) : State :=
  { s with key := key, block := block, nonce := nonce, ctin := ctin }

section
variable (key block nonce : Vector Word 4) (ctin : Vector Word 8) (s : State)

/-- A commit takes its operands from the snapshot and writes none of the banks (R36, R82). -/
theorem commit_withOperands :
    commit (withOperands key block nonce ctin s) = withOperands key block nonce ctin (commit s) := by
  cases hp : s.pend with
  | none => rw [commit_none s hp, commit_none (withOperands key block nonce ctin s) hp]
  | some p =>
    rw [commit_some s p hp, commit_some (withOperands key block nonce ctin s) p hp, applyResult, applyResult]
    cases p.op <;> rfl

theorem engineStep_withOperands :
    engineStep (withOperands key block nonce ctin s) = withOperands key block nonce ctin (engineStep s) := by
  cases hp : s.pend with
  | none => rw [engineStep_none s hp, engineStep_none (withOperands key block nonce ctin s) hp]
  | some p =>
    by_cases hl : p.left = 1
    · rw [engineStep_last s p hp hl, engineStep_last (withOperands key block nonce ctin s) p hp hl,
        commit_withOperands]
    · rw [engineStep_more s p hp hl, engineStep_more (withOperands key block nonce ctin s) p hp hl]
      rfl

end

/-- Settles O45: the write replaces one operand bank, and an engine step neither reads nor writes any of them. -/
theorem inputWritesDoNotReachTheCommandInFlight : Obligations.InputWritesDoNotReachTheCommandInFlight := by
  intro r v s t hr h
  rw [memWrite_regOffset] at h ⊢
  have hkeeps : engineStep s = withOperands s.key s.block s.nonce s.ctin (engineStep s) :=
    engineStep_withOperands s.key s.block s.nonce s.ctin s
  rw [hkeeps]
  obtain ⟨j, rfl⟩ | ⟨j, rfl⟩ | ⟨j, rfl⟩ | ⟨j, rfl⟩ := hr <;>
  · obtain rfl := Host.Outcome.next.inj h
    exact congrArg Host.Outcome.next (engineStep_withOperands _ _ _ _ s).symm

/-- The engine steps left after the first `n` of a word issued in an idle core, `none` once its command has ended. -/
def stepsLeft (v : Word) (rksValid : Bool) (n : Nat) : Option Nat :=
  if firstError v rksValid = none ∧ n < latency (opOfWord v) then some (latency (opOfWord v) - n) else none

/-- Whether a word starts depends on the state by RKS_VALID alone, and how long it then runs not at all (R9, R246). -/
theorem engineSteps_issued_busy_left {s : State} (hp : s.pend = none) (v : Word) (n : Nat) :
    (engineSteps n (issued v s)).status.busy = (stepsLeft v s.status.rksValid n).isSome ∧
      (engineSteps n (issued v s)).pend.map (·.left) = stepsLeft v s.status.rksValid n := by
  cases hf : firstError v s.status.rksValid with
  | some code =>
    have hfail : (issued v s).pend = none := by simp [hf, hp]
    simp [engineSteps_none hfail, stepsLeft, hf, hp]
  | none =>
    have hstart := (issued_pend v s).trans (if_pos hf)
    by_cases hn : n < latency (opOfWord v)
    · simp [engineSteps_of_lt hstart hn, stepsLeft, hf, hn]
    · simp [engineSteps_of_le hstart (latency_pos _) (Nat.le_of_not_lt hn), commit_busy_done hstart, stepsLeft, hn]

/-- Settles O46: the two states agree in RKS_VALID, by which `stepsLeft` gives both runs. -/
theorem latencyDoesNotDependOnData : Obligations.LatencyDoesNotDependOnData := by
  intro v s s' t t' n hb hb' hp hp' hvalid h h'
  obtain rfl := Host.Outcome.next.inj ((issueCommand_idle v s hb).symm.trans h)
  obtain rfl := Host.Outcome.next.inj ((issueCommand_idle v s' hb').symm.trans h')
  obtain ⟨hbusy, hleft⟩ := engineSteps_issued_busy_left hp v n
  obtain ⟨hbusy', hleft'⟩ := engineSteps_issued_busy_left hp' v n
  rw [hbusy, hbusy', hleft, hleft', hvalid]
  exact ⟨rfl, rfl⟩

/-- A reset cycle that carries no access, or one that the interface can express, leaves the reset state (R230). -/
theorem step_resetCycle {a : Option Access} {s : State} {rest : List Event} (ha : a.all accessExpressible = true)
    (he : s.todo = .resetCycle a :: rest) :
    step s = .next { State.reset with rdata := resetRdata a, todo := rest } :=
  (step_cons s _ rest he).trans (if_pos ha)

/-- Settles O52. -/
theorem resetCycleRestoresTheResetState : Obligations.ResetCycleRestoresTheResetState := fun _ _ _ _ h4 hw =>
  ⟨step_resetCycle rfl, step_resetCycle ((accessExpressible_iff _).2 ⟨rfl, h4, hw⟩),
    step_resetCycle ((accessExpressible_iff _).2 ⟨rfl, h4, hw⟩)⟩

end Sys2Proof.Proofs
